-- ==== Sys2Proof/Word.lean ====
section
/-! DEFINITION. The words of lorenc-core and the three-channel array of its datapath (spec 00_scope.md rules R8, R11, R13). -/

namespace Sys2Proof

/-- A byte of bus memory or of the key (R11, R62). -/
abbrev Byte := BitVec 8

/-- A register, a command word, a bus address or a length (R28, R60, R80). -/
abbrev Word := BitVec 32

/-- A binary64 value held as its 64-bit pattern, `hex64` of R9; software reads the pattern (R39, R40). -/
abbrev F64 := BitVec 64

/-- A three-element array over the channels 0, 1, 2 (R13, R20). -/
structure Three (α : Type) where
  ch0 : α
  ch1 : α
  ch2 : α
deriving DecidableEq, Repr

/-- Element `i` of a three-element array, the spec's `x[i]` (R8). -/
def Three.get {α : Type} (t : Three α) : Fin 3 → α
  | 0 => t.ch0
  | 1 => t.ch1
  | 2 => t.ch2

/-- The array whose element `i` is `f i`, the spec's `for i in 0..2` (R13). -/
def Three.ofFn {α : Type} (f : Fin 3 → α) : Three α := ⟨f 0, f 1, f 2⟩

end Sys2Proof
end

