-- ==== Sys2Proof/Syntax.lean ====
section
/-! DEFINITION. The commands of lorenc-core, one constructor per row of spec/opcode_table.json (spec 30_encoding.md R80 to R84).
A command word has no operand field: operands come from the latched registers (R81). The six rows named ILLEGAL_COMMAND differ
in which bits of the word they leave free, and their constructors carry exactly those bits. -/

namespace Sys2Proof

inductive Instr where
  /-- R190 -/
  | nop
  /-- R110 -/
  | keyLoad
  /-- R152 -/
  | blockEnc
  /-- R153 -/
  | blockDec
  /-- R170 -/
  | chainInitEnc
  /-- R171 -/
  | chainInitDec
  /-- R175 -/
  | chainCrypt
  /-- R191 -/
  | clear
  /-- R83: OPC 0x08 to 0x0F with RSV = 0. -/
  | illegalOpc08 (low : BitVec 3)
  /-- R83: OPC 0x10 to 0x1F with RSV = 0. -/
  | illegalOpc10 (low : BitVec 4)
  /-- R83: OPC 0x20 to 0x3F with RSV = 0. -/
  | illegalOpc20 (low : BitVec 5)
  /-- R83: OPC 0x40 to 0x7F with RSV = 0. -/
  | illegalOpc40 (low : BitVec 6)
  /-- R83: OPC 0x80 to 0xFF with RSV = 0. -/
  | illegalOpc80 (low : BitVec 7)
  /-- R83: the table's last row, every word no row above it matches, that is RSV ≠ 0. -/
  | illegalRsv (w : Word)
deriving DecidableEq, Repr

end Sys2Proof
end

