-- ==== Sys2Proof/WellFormed.lean ====
section
/-! DEFINITION. Which terms of `Instr` stand for a command word (spec 30_encoding.md R83, R84): the catch-all row holds only
the words that no earlier row matches, so its word has RSV ≠ 0. -/

namespace Sys2Proof

/-- The reserved field RSV of a command word, bits 31:8 (R80). -/
def rsvOf (w : Word) : BitVec 24 := w.extractLsb' 8 24

/-- The operation code OPC of a command word, bits 7:0 (R80). -/
def opcOf (w : Word) : BitVec 8 := w.extractLsb' 0 8

/-- The instruction stands for a word of its own row (R83, R84). -/
def Instr.wellFormed : Instr → Bool
  | .nop => true
  | .keyLoad => true
  | .blockEnc => true
  | .blockDec => true
  | .chainInitEnc => true
  | .chainInitDec => true
  | .chainCrypt => true
  | .clear => true
  | .illegalOpc08 _ => true
  | .illegalOpc10 _ => true
  | .illegalOpc20 _ => true
  | .illegalOpc40 _ => true
  | .illegalOpc80 _ => true
  | .illegalRsv w => rsvOf w != 0

end Sys2Proof
end

