-- ==== Sys2Proof/Decode.lean ====
section
/-! DEFINITION. The decoder of a command word and, after it, the encoder (spec 30_encoding.md R80, R82, R83, R84). The decoder
is total on all 2^32 words (R83): a word it does not accept as a command is one of the ILLEGAL_COMMAND rows. -/

namespace Sys2Proof

/-- The row of the opcode table for a word with RSV = 0, by its operation code (R82, R84). -/
def decodeOpc (opc : BitVec 8) : Instr :=
  if opc = 0x00#8 then .nop
  else if opc = 0x01#8 then .keyLoad
  else if opc = 0x02#8 then .blockEnc
  else if opc = 0x03#8 then .blockDec
  else if opc = 0x04#8 then .chainInitEnc
  else if opc = 0x05#8 then .chainInitDec
  else if opc = 0x06#8 then .chainCrypt
  else if opc = 0x07#8 then .clear
  else if opc < 0x10#8 then .illegalOpc08 (opc.extractLsb' 0 3)
  else if opc < 0x20#8 then .illegalOpc10 (opc.extractLsb' 0 4)
  else if opc < 0x40#8 then .illegalOpc20 (opc.extractLsb' 0 5)
  else if opc < 0x80#8 then .illegalOpc40 (opc.extractLsb' 0 6)
  else .illegalOpc80 (opc.extractLsb' 0 7)

/-- `decode(w)` of R84. -/
def decode (w : Word) : Instr :=
  if rsvOf w ≠ 0 then .illegalRsv w else decodeOpc (opcOf w)

/-- The command word of an instruction: a row's fixed bits with its free bits filled in (R82, spec/opcode_table.json). -/
def encode : Instr → Word
  | .nop => 0x00000000#32
  | .keyLoad => 0x00000001#32
  | .blockEnc => 0x00000002#32
  | .blockDec => 0x00000003#32
  | .chainInitEnc => 0x00000004#32
  | .chainInitDec => 0x00000005#32
  | .chainCrypt => 0x00000006#32
  | .clear => 0x00000007#32
  | .illegalOpc08 low => 0x00000008#32 ||| low.setWidth 32
  | .illegalOpc10 low => 0x00000010#32 ||| low.setWidth 32
  | .illegalOpc20 low => 0x00000020#32 ||| low.setWidth 32
  | .illegalOpc40 low => 0x00000040#32 ||| low.setWidth 32
  | .illegalOpc80 low => 0x00000080#32 ||| low.setWidth 32
  | .illegalRsv w => w

/-- What the decoder reads from a table word. A command is one 32-bit register write (R80, R85), bit 0 of the register being
the word's least significant bit (R28), so no byte order enters; a number that is no 32-bit word is no command. -/
def decodeTableWord (nbits w : Nat) : Option Instr :=
  if nbits ≤ 32 ∧ w < 2 ^ 32 then some (decode (BitVec.ofNat 32 w)) else none

end Sys2Proof
end

