-- ==== Sys2Proof/Config.lean ====
section
/-! DEFINITION. The configuration parameters of spec 00_scope.md R6 and the free values. Parameters that are data are fields of
`Setup`, which the state carries and no step writes; every statement is for every `Setup`. What the spec leaves open and no
configuration fixes is an opaque constant of namespace `Config`: it has no body, so nothing can be proved of its value. -/

namespace Sys2Proof

/-- TAP_WORD_ORDER: how digest bytes 0..3 become an integer (R6, R104). -/
inductive WordOrder where
  /-- byte 0 is the most significant -/
  | be
  /-- byte 0 is the least significant -/
  | le
deriving DecidableEq, Repr, Inhabited

/-- A digest of at least four bytes (R6, `TAP_HASH`). -/
structure Digest where
  h0 : Byte
  h1 : Byte
  h2 : Byte
  h3 : Byte
  rest : List Byte
deriving DecidableEq, Repr, Inhabited

/-- The binary64 operations of the datapath (R9). -/
inductive FloatOp where
  | add
  | sub
  | mul
  | div
deriving DecidableEq, Repr

namespace Config

/-- TAP_HASH, OPEN (R6, R104; item 2): any fixed function from byte strings to digests. Log 8. -/
opaque tapHash : List Byte → Digest

/-- TAP_WORD_ORDER, OPEN (R6, R104; item 3). Log 9. -/
opaque tapWordOrder : WordOrder

/-- CVT_OOR, OPEN (R6, R10; item 1): the value of the `n`-th draw. Log 10. -/
opaque cvtOor : Nat → BitVec 64

/-- What a mirror read returns while BUSY = 1, the `n`-th draw (R43; item 17). Log 12. -/
opaque mirrorWord : Nat → Word

/-- A binary64 component of CS after a bus error in CHAIN_CRYPT, the `n`-th draw (R208; item 19). Log 13. -/
opaque lostF64 : Nat → F64

/-- A mix index of CS after a bus error in CHAIN_CRYPT (R208; items 16, 19). Log 13. -/
opaque lostMix : Nat → Fin 3

/-- A tap index of CS after a bus error in CHAIN_CRYPT (R208; item 19). Log 13. -/
opaque lostTap : Nat → Fin 4

/-- CYCLES after a bus error in CHAIN_CRYPT (R208; item 19). Log 13. -/
opaque lostCycles : Nat → BitVec 64

/-- The sign and the 51 payload bits of a NaN result, which no rule states (R9, R132). Log 11. -/
opaque nanTail : FloatOp → F64 → F64 → BitVec 52

end Config

/-- The numeric parameters, each at its default (R6, R7). No rule computes with `sigma`, `rho` and `beta` themselves: the rules
use the coefficients, which R7 ties to them. Log 21. -/
structure Numerics where
  sigma : Rat := 10
  rho : Rat := 28
  beta : Rat := { num := 8, den := 3 }
  seedDiv : F64 := 0x4341C37937E08000#64
  seedOff : Three F64 := ⟨0x3FF0000000000000#64, 0x4008000000000000#64, 0x403E000000000000#64⟩
  cX0 : F64 := 0xC022000000000000#64
  cY0 : F64 := 0x4024000000000000#64
  cX1 : F64 := 0x403C000000000000#64
  cY1 : F64 := 0x4000000000000000#64
  cZ2 : F64 := 0xBFFAAAAAAAAAAAAB#64
  dt : F64 := 0x3F847AE147AE147B#64
  extScale : F64 := 0x42D6BCC41E900000#64
deriving DecidableEq, Repr

/-- A hash given as data: digests of listed messages and one digest for every other message. -/
structure TapTable where
  rows : List (List Byte × Digest)
  other : Digest
deriving DecidableEq, Repr

/-- The bus addresses `base` to `base + size - 1`. -/
structure Range where
  base : Nat
  size : Nat
deriving DecidableEq, Repr

/-- A bus response to a register access (R70). The spec gives MMIO_BAD_ACCESS no form: DESIGN CHOICE, log 7. -/
inductive BusResponse where
  /-- the access ends with an error -/
  | error
  /-- the access ends as if performed; a read gives the low bits of `v`, as many as its width -/
  | done (v : BitVec 64)
deriving DecidableEq, Repr

/-- What the platform decides (R6): all of it OPEN. Log 7. -/
structure Platform where
  /-- MMIO_BASE (R28, R71; item 6) -/
  mmioBase : Word
  /-- MEM_MAP: the addresses that hold memory (R60; item 7) -/
  memMap : List Range
  /-- addresses with read or write side effects, beside the engine's own window (R69; item 21) -/
  devices : List Range
  /-- BUS_ERR for engine reads (R78; item 8) -/
  busErrRead : List Range
  /-- BUS_ERR for engine writes (R78; item 8) -/
  busErrWrite : List Range
  /-- MEM_COHERENT (R77; item 9) -/
  memCoherent : Bool
  /-- MMIO_BAD_ACCESS: the response to a register access that is not an aligned 32-bit one (R70; item 12) -/
  mmioBadAccess : BusResponse
  /-- IRQ_LINE (R210; item 10) -/
  irqLine : Nat
deriving DecidableEq, Repr

/-- One configuration. An optional field left at `none` is OPEN: the model then uses the opaque constant of `Config`. -/
structure Setup where
  numerics : Numerics
  tapHash : Option TapTable
  tapWordOrder : Option WordOrder
  /-- `some v`: every out-of-range conversion gives `v`; `none`: each one is a draw (item 1) -/
  cvtOor : Option (BitVec 64)
  platform : Platform
deriving DecidableEq, Repr

end Sys2Proof
end

