-- ==== Sys2Proof/Machine/State.lean ====
section
/-! DEFINITION. The state of lorenc-core as plain data, the reasons a step can stop, and the state after reset
(spec 10_state.md R20 to R48). INVENTORY.md, heading State, lists every field with its rule and its reset value. -/

namespace Sys2Proof.Machine

/-- A Chaotic State (R20): positions, mix indices, tap indices and the cached projection alpha. -/
structure Chaotic where
  pos : Three F64
  mix : Three (Fin 3)
  tap : Three (Fin 4)
  alpha : Three F64
deriving DecidableEq, Repr

/-- The direction of a transform (R22, R151). -/
inductive Dir where
  | enc
  | dec
deriving DecidableEq, Repr

/-- The error codes of R205. The reserved codes 10 to 15 are never produced, so they have no constructor (item 15). -/
inductive ErrCode where
  | none
  | invalidKeySize
  | bufferTooShort
  | unalignedInput
  | bufferOverlap
  | illegalCommand
  | noKey
  | noChain
  | busError
  | addressRange
deriving DecidableEq, Repr

/-- Which operand an error concerns (R33, ERR_ARG). -/
inductive ErrArg where
  | none
  | key
  | source
  | destination
deriving DecidableEq, Repr

/-- The six operand registers (R35 to R37), and as many latched copies (R27). -/
structure Operands where
  keyAddr : Word
  keyLen : Word
  srcAddr : Word
  srcLen : Word
  dstAddr : Word
  dstLen : Word
deriving DecidableEq, Repr

/-- The width of a register access (R70). -/
inductive Width where
  | w8
  | w16
  | w32
  | w64
deriving DecidableEq, Repr

/-- What happens beside the engine, and the engine's own turns between (R202, R251, R256). Log 3. -/
inductive Event where
  /-- a register read at a window offset (R70) -/
  | regRead (w : Width) (off : BitVec 8)
  /-- a register write at a window offset (R70) -/
  | regWrite (w : Width) (off : BitVec 8) (v : Word)
  /-- the host stores a byte, through its caches (R73, R77) -/
  | hostStore (a : Word) (v : Byte)
  /-- the host loads a byte, through its caches (R73, R77) -/
  | hostLoad (a : Word)
  /-- the host writes a cached byte back to memory (R77) -/
  | hostClean (a : Word)
  /-- the host drops a cached byte (R77) -/
  | hostInvalidate (a : Word)
  /-- another bus master writes a byte of memory (R251) -/
  | busWrite (a : Word) (v : Byte)
  /-- the platform's reset input (R240) -/
  | reset
  /-- the engine's turn: at most `n` of its steps, each one bus access or the completion -/
  | engine (n : Nat)
deriving DecidableEq, Repr

/-- What a read returned to its agent. -/
inductive Reply where
  | reg (off : BitVec 8) (v : Word)
  | mem (a : Word) (v : Byte)
deriving DecidableEq, Repr

/-- A byte the host holds in its caches (R77). -/
structure CacheLine where
  addr : Nat
  byte : Byte
  dirty : Bool
deriving DecidableEq, Repr

/-- Bus memory: the bytes that differ from what an unlisted address reads as, addresses strictly rising. -/
abbrev Memory := List Host.Cell

structure State where
  /-- R24 -/
  key : Vector Byte 18
  /-- R24, R33 -/
  keyValid : Bool
  /-- the chain state CS (R22) -/
  cs : Chaotic
  /-- R22, R33 -/
  chainValid : Bool
  /-- R22, R33: encryption is the register value 0 -/
  chainDir : Dir
  /-- R22, R38 -/
  cycles : BitVec 64
  /-- the transient state TS (R23) -/
  ts : Option Chaotic
  /-- R27, R33 -/
  busy : Bool
  /-- the latched command word L_CMD (R27) -/
  lCmd : Word
  /-- the latched operands L_* (R27) -/
  latch : Operands
  /-- the byte index IDX (R27, R48) -/
  idx : Word
  /-- the source byte that has been read and whose destination byte is not yet written (R64, R68). Log 4. -/
  held : Option Byte
  /-- the key buffer KB (R27) -/
  kb : Vector Byte 18
  /-- CTRL.IE (R31) -/
  ie : Bool
  /-- STATUS.DONE (R33) -/
  done : Bool
  /-- STATUS.NX (R33) -/
  nx : Bool
  /-- STATUS.OVR (R33) -/
  ovr : Bool
  /-- STATUS.ERR (R33, R205) -/
  err : ErrCode
  /-- STATUS.ERR_ARG (R33, R205) -/
  errArg : ErrArg
  /-- R34 -/
  errInfo : Word
  /-- the operand registers (R35 to R37) -/
  ops : Operands
  /-- R60 -/
  mem : Memory
  /-- what the host's caches hold when they are not coherent (R73, R77). Log 18. -/
  hostCache : List CacheLine
  /-- the configuration (R6); no step writes it -/
  setup : Setup
  /-- the MODEL's own: what happens next, oldest first. Log 3. -/
  inputs : List Event
  /-- the MODEL's own: what reads returned, oldest first. Log 3. -/
  replies : List Reply
  /-- the MODEL's own: how many free values have been drawn. Log 14. -/
  draws : Nat
deriving DecidableEq, Repr

/-- Why a step stops where the spec gives a command no step. -/
inductive Fault where
  /-- R69: a buffer holds an address with side effects, or of the engine's own window. Raised by the commands that reach memory,
  after their checks. Safe: the spec gives the command no step. Log 15. -/
  | sideEffectBuffer
  /-- R256: the bus never answers an engine access, since no memory stands at the address and BUS_ERR does not hold there. Raised
  at the byte whose access is not answered. Safe: the spec gives the command no completion. Log 16. -/
  | busNoAnswer
deriving DecidableEq, Repr

/-- Why a step is refused. -/
inductive Refusal where
  /-- An instruction the model gives no meaning. Raised by exec alone. Safe. -/
  | notModelled (mnemonic : String)
  /-- R70: a register access that is not an aligned 32-bit one; a model refuses it, and the bus answers with the platform's
  MMIO_BAD_ACCESS. Raised by register events. Safe. Log 19. -/
  | badRegisterAccess (response : BusResponse)
  /-- A host or another master accesses, as memory, an address that holds none. Raised by memory events. Safe. Log 20. -/
  | hostAccessOutsideMemory
deriving DecidableEq, Repr

/-- A Chaotic State of zeros: CS after reset and after CLEAR (R45, R191). -/
def zeroChaotic : Chaotic :=
  { pos := ⟨0, 0, 0⟩, mix := ⟨0, 0, 0⟩, tap := ⟨0, 0, 0⟩, alpha := ⟨0, 0, 0⟩ }

/-- Eighteen zero bytes. -/
def zeroKey : Vector Byte 18 := Vector.replicate 18 0

/-- Operand registers of zeros. -/
def zeroOperands : Operands :=
  { keyAddr := 0, keyLen := 0, srcAddr := 0, srcLen := 0, dstAddr := 0, dstLen := 0 }

/-- The platform of `State.reset`. All of it is OPEN in the spec: DESIGN CHOICE, log 7. -/
def resetPlatform : Platform :=
  { mmioBase := 0x80000000#32, memMap := [⟨0, 2 ^ 32⟩], devices := [], busErrRead := [], busErrWrite := [],
    memCoherent := true, mmioBadAccess := .error, irqLine := 0 }

/-- The configuration of `State.reset`: the defaults of R6, the open functions left open. -/
def resetSetup : Setup :=
  { numerics := {}, tapHash := none, tapWordOrder := none, cvtOor := none, platform := resetPlatform }

/-- The machine right after reset (R45, R241). L_CMD, the latched operands, IDX and KB are unspecified there: DESIGN CHOICE,
log 6; between later commands they keep what the last one left: log 30. -/
def State.reset : State :=
  { key := zeroKey, keyValid := false,
    cs := zeroChaotic, chainValid := false, chainDir := .enc, cycles := 0, ts := none,
    busy := false, lCmd := 0, latch := zeroOperands, idx := 0, held := none, kb := zeroKey,
    ie := false, done := false, nx := false, ovr := false, err := .none, errArg := .none, errInfo := 0,
    ops := zeroOperands,
    mem := [], hostCache := [], setup := resetSetup, inputs := [], replies := [], draws := 0 }

end Sys2Proof.Machine
end

