-- ==== Sys2Proof/Machine/Flags.lean ====
section
/-! DEFINITION. The status and control words as software sees them, the write-one-to-clear rule and the interrupt output
(spec 10_state.md R31, R33, R41, R46; 60_exceptions.md R205, R210). Each field has one home in the state; the words are views. -/

namespace Sys2Proof.Machine

/-- A flag as a one-bit field. -/
def bit (b : Bool) : BitVec 1 := BitVec.ofBool b

/-- CHAIN_DIR as its register value (R22). -/
def dirBit : Dir → BitVec 1
  | .enc => 0#1
  | .dec => 1#1

/-- The code of an error (R205). -/
def errBits : ErrCode → BitVec 4
  | .none => 0#4
  | .invalidKeySize => 1#4
  | .bufferTooShort => 2#4
  | .unalignedInput => 3#4
  | .bufferOverlap => 4#4
  | .illegalCommand => 5#4
  | .noKey => 6#4
  | .noChain => 7#4
  | .busError => 8#4
  | .addressRange => 9#4

/-- The code of an error argument (R33). -/
def argBits : ErrArg → BitVec 2
  | .none => 0#2
  | .key => 1#2
  | .source => 2#2
  | .destination => 3#2

/-- STATUS as read, bit 31 first (R33). -/
def statusWord (s : State) : Word :=
  0#18 ++ argBits s.errArg ++ errBits s.err ++ 0#1 ++ bit s.ovr ++ bit s.nx ++ dirBit s.chainDir ++ bit s.chainValid ++
    bit s.keyValid ++ bit s.done ++ bit s.busy

/-- CTRL as read (R31). -/
def ctrlWord (s : State) : Word := 0#31 ++ bit s.ie

/-- IDXR as read while BUSY = 0, bit 31 first (R41). -/
def idxrWord (c : Chaotic) : Word :=
  0#18 ++ BitVec.ofNat 2 c.tap.ch2.val ++ BitVec.ofNat 2 c.tap.ch1.val ++ BitVec.ofNat 2 c.tap.ch0.val ++ 0#2 ++
    BitVec.ofNat 2 c.mix.ch2.val ++ BitVec.ofNat 2 c.mix.ch1.val ++ BitVec.ofNat 2 c.mix.ch0.val

/-- A flag after a write to its register under the W1C rule: a written 1 clears it, a written 0 leaves it (R29). -/
def w1c (flag written : Bool) : Bool := flag && !written

/-- A write of `v` to STATUS: only DONE, NX and OVR change (R33). -/
def writeStatus (v : Word) (s : State) : State :=
  { s with done := w1c s.done (v.getLsbD 1), nx := w1c s.nx (v.getLsbD 5), ovr := w1c s.ovr (v.getLsbD 6) }

/-- A write of `v` to CTRL: it takes effect at once, busy or not (R31, R44). -/
def writeCtrl (v : Word) (s : State) : State := { s with ie := v.getLsbD 0 }

/-- The `irq` output (R46, R210). -/
def irq (s : State) : Bool := s.ie && s.done

/-- The level at the platform's interrupt input `line`, as far as the engine drives it (R210, IRQ_LINE). -/
def irqAt (line : Nat) (s : State) : Bool := line == s.setup.platform.irqLine && irq s

end Sys2Proof.Machine
end

