-- ==== Sys2Proof/Machine/Float.lean ====
section
/-! DEFINITION. Binary64 arithmetic on bit patterns (spec 00_scope.md R9, R10; 41_keystream_cascade.md R124): the operands become
exact integers times a power of two, the exact result is formed, and it is rounded once, to nearest with ties to even. Subnormals
are kept. A NaN result is a quiet NaN whose other bits are free (log 11). -/

namespace Sys2Proof.Machine

/-- The sign bit of a pattern. -/
def fSign (a : F64) : Bool := a.getLsbD 63

/-- The biased exponent field of a pattern. -/
def fExp (a : F64) : Nat := (a.extractLsb' 52 11).toNat

/-- The fraction field of a pattern. -/
def fFrac (a : F64) : Nat := (a.extractLsb' 0 52).toNat

def fIsNan (a : F64) : Bool := fExp a == 2047 && fFrac a != 0

def fIsInf (a : F64) : Bool := fExp a == 2047 && fFrac a == 0

def fIsZero (a : F64) : Bool := fExp a == 0 && fFrac a == 0

/-- The significand of a finite pattern as an integer. -/
def fMant (a : F64) : Nat := if fExp a = 0 then fFrac a else fFrac a + 2 ^ 52

/-- The power of two of the last place: a finite pattern stands for ± `fMant a` · 2 ^ `fPow a`. -/
def fPow (a : F64) : Int := (max (fExp a) 1 : Nat) - (1075 : Int)

/-- A pattern from its sign and its magnitude bits. -/
def fPack (neg : Bool) (magnitude : Nat) : F64 :=
  BitVec.ofNat 64 (magnitude + if neg then 2 ^ 63 else 0)

def fZero (neg : Bool) : F64 := fPack neg 0

def fInf (neg : Bool) : F64 := fPack neg (2047 * 2 ^ 52)

/-- The opposite sign. -/
def fNeg (a : F64) : F64 := a ^^^ 0x8000000000000000#64

/-- The quiet NaN an operation gives; its sign and payload are free (R9, R132; log 11). -/
def fNan (op : FloatOp) (a b : F64) : F64 :=
  let t := Config.nanTail op a b
  fPack (t.getLsbD 51) (2047 * 2 ^ 52 + 2 ^ 51 + (t.extractLsb' 0 51).toNat)

/-- `n / d` to the nearest integer, ties to even. -/
def roundHalfEven (n d : Nat) : Nat :=
  let q := n / d
  let r := n % d
  if d < 2 * r then q + 1
  else if 2 * r = d ∧ q % 2 = 1 then q + 1
  else q

/-- The greatest `k` with 2 ^ `k` ≤ `n / d`, for positive `n` and `d`. -/
def floorLog2Ratio (n d : Nat) : Int :=
  let k : Int := (n.log2 : Int) - (d.log2 : Int)
  if d * 2 ^ k.toNat ≤ n * 2 ^ (-k).toNat then k else k - 1

/-- The binary64 value nearest to ± `num / den` · 2 ^ `e`, ties to even (R9). The unit in the last place is 2 ^ `q`: it leaves a
significand of 53 bits, or is that of the subnormals. The magnitude bits are then the significand added to the exponent field,
where a carry out of the significand falls into the exponent; from the infinity pattern on, the result is an infinity. -/
def fRound (neg : Bool) (num den : Nat) (e : Int) : F64 :=
  if num = 0 then fZero neg
  else
    let q : Int := max (floorLog2Ratio num den + e - 52) (-1074)
    let m := roundHalfEven (num * 2 ^ (e - q).toNat) (den * 2 ^ (q - e).toNat)
    let bits := (q + 1074).toNat * 2 ^ 52 + m
    if 2047 * 2 ^ 52 ≤ bits then fInf neg else fPack neg bits

/-- The binary64 value nearest to a rational number (R7, R9). -/
def fOfRat (x : Rat) : F64 := fRound (decide (x.num < 0)) x.num.natAbs x.den 0

/-- `f64(n)` of R9. -/
def fOfNat (n : Nat) : F64 := fRound false n 1 0

/-- The signed significand of a finite pattern, in units of 2 ^ `e`, for `e` ≤ `fPow a`. -/
def fScaled (a : F64) (e : Int) : Int :=
  let m : Int := fMant a * 2 ^ (fPow a - e).toNat
  if fSign a then -m else m

/-- The exact sum of two finite values, rounded once. An exact sum of zero is +0, but -0 when both operands are -0. -/
def fAddFinite (a b : F64) : F64 :=
  let e := min (fPow a) (fPow b)
  let sum := fScaled a e + fScaled b e
  if sum = 0 then fZero (fSign a && fSign b)
  else fRound (decide (sum < 0)) sum.natAbs 1 e

/-- The sum of `a` and `b`, where `nan` is the result if there is no other. -/
def fAddWith (nan a b : F64) : F64 :=
  if fIsNan a || fIsNan b then nan
  else if fIsInf a then (if fIsInf b && fSign a != fSign b then nan else a)
  else if fIsInf b then b
  else fAddFinite a b

/-- `a ⊕ b` (R9, R124). -/
def fAdd (a b : F64) : F64 := fAddWith (fNan .add a b) a b

/-- `a ⊖ b` (R9, R124). -/
def fSub (a b : F64) : F64 := fAddWith (fNan .sub a b) a (fNeg b)

/-- `a ⊗ b` (R9, R124). -/
def fMul (a b : F64) : F64 :=
  let neg := fSign a != fSign b
  if fIsNan a || fIsNan b then fNan .mul a b
  else if fIsInf a then (if fIsZero b then fNan .mul a b else fInf neg)
  else if fIsInf b then (if fIsZero a then fNan .mul a b else fInf neg)
  else fRound neg (fMant a * fMant b) 1 (fPow a + fPow b)

/-- `a ⊘ b` (R9, R124). -/
def fDiv (a b : F64) : F64 :=
  let neg := fSign a != fSign b
  if fIsNan a || fIsNan b then fNan .div a b
  else if fIsInf a then (if fIsInf b then fNan .div a b else fInf neg)
  else if fIsInf b then fZero neg
  else if fIsZero b then (if fIsZero a then fNan .div a b else fInf neg)
  else fRound neg (fMant a) (fMant b) (fPow a - fPow b)

/-- A finite value rounded toward zero, as an integer (R10). -/
def fTruncInt (a : F64) : Int :=
  let m : Int := if 0 ≤ fPow a then fMant a * 2 ^ (fPow a).toNat else fMant a / 2 ^ (-fPow a).toNat
  if fSign a then -m else m

/-- `trunc64(a)` of R10 as the 64-bit two's-complement pattern R121 takes; `none` for NaN, an infinity or a value outside
[-2^63, 2^63). A value of magnitude 2^53 or more is an integer, so the truncated value is in range exactly when the value is. -/
def trunc64 (a : F64) : Option (BitVec 64) :=
  if fExp a = 2047 then none
  else if -(2 ^ 63 : Int) ≤ fTruncInt a ∧ fTruncInt a < 2 ^ 63 then some (BitVec.ofInt 64 (fTruncInt a))
  else none

end Sys2Proof.Machine
end

