-- ==== Sys2Proof/Machine/KeySchedule.lean ====
section
/-! DEFINITION. The key schedule: a pure function from an 18-byte key to a Chaotic State (spec 40_key_schedule.md R100 to R106). -/

namespace Sys2Proof.Machine

/-- `fromLE` of R11: byte 0 is the least significant. -/
def fromLE : List Byte → Nat
  | [] => 0
  | b :: bs => b.toNat + 256 * fromLE bs

/-- `LE_N` of R11. -/
def toLE : Nat → Nat → List Byte
  | 0, _ => []
  | k + 1, n => BitVec.ofNat 8 n :: toLE k (n / 256)

/-- Segment `j` of the key as a 48-bit integer (R101). -/
def segment (key : Vector Byte 18) (j : Fin 3) : Nat :=
  fromLE ((key.toList.drop (6 * j.val)).take 6)

/-- The three mix indices, in the order the rule writes them (R102). -/
def mixOf (a : Three Nat) : Three (Fin 3) :=
  let x := a.ch0 % 3
  let y := a.ch1 % 3
  let z := a.ch2 % 3
  ⟨Fin.ofNat 3 (x + y + z), Fin.ofNat 3 (x * y + z), Fin.ofNat 3 (x + y * z)⟩

/-- Position `j` from segment `j`: the division is rounded, then the sum (R103). -/
def seedPos (num : Numerics) (a : Three Nat) (j : Fin 3) : F64 :=
  fAdd (fDiv (fOfNat (a.get j)) num.seedDiv) (num.seedOff.get j)

/-- The 24-byte message of channel `i` (R104). -/
def tapMessage (a : Three Nat) (i : Fin 3) : List Byte :=
  let n := i.val + 1
  toLE 8 (n * a.ch0) ++ toLE 8 (n * a.ch1) ++ toLE 8 (n * a.ch2)

/-- TAP_HASH of a configuration: its own table, or the open function (R104; log 8). -/
def tapHash (c : Setup) (msg : List Byte) : Digest :=
  match c.tapHash with
  | none => Config.tapHash msg
  | some t => (t.rows.lookup msg).getD t.other

/-- TAP_WORD_ORDER of a configuration: its own, or the open one (R104; log 9). -/
def tapWordOrder (c : Setup) : WordOrder := c.tapWordOrder.getD Config.tapWordOrder

/-- The first 32 bits of a digest as an integer (R104). -/
def digestWord (o : WordOrder) (h : Digest) : Nat :=
  match o with
  | .be => h.h0.toNat * 2 ^ 24 + h.h1.toNat * 2 ^ 16 + h.h2.toNat * 2 ^ 8 + h.h3.toNat
  | .le => h.h0.toNat + h.h1.toNat * 2 ^ 8 + h.h2.toNat * 2 ^ 16 + h.h3.toNat * 2 ^ 24

/-- The tap index of channel `i` (R104). -/
def tapOf (c : Setup) (a : Three Nat) (i : Fin 3) : Fin 4 :=
  Fin.ofNat 4 (digestWord (tapWordOrder c) (tapHash c (tapMessage a i)))

/-- `alpha[i] = pos[mix[i]]`, copied bit for bit (R105, R129). -/
def project (pos : Three F64) (mix : Three (Fin 3)) : Three F64 :=
  Three.ofFn fun i => pos.get (mix.get i)

/-- `KeySchedule(K)` (R100, R106). -/
def keySchedule (c : Setup) (key : Vector Byte 18) : Chaotic :=
  let a := Three.ofFn (segment key)
  let mix := mixOf a
  let pos := Three.ofFn (seedPos c.numerics a)
  { pos := pos, mix := mix, tap := Three.ofFn (tapOf c a), alpha := project pos mix }

end Sys2Proof.Machine
end

