-- ==== Sys2Proof/Machine/Keystream.lean ====
section
/-! DEFINITION. The keystream extractor, the digit, the state update cascade and the per-byte transform
(spec 41_keystream_cascade.md R120 to R132; 42_block_cipher.md R151). -/

namespace Sys2Proof.Machine

/-- A Chaotic State with what the conversions made on it can write: STATUS.NX and the count of draws (R120, R123, R125). -/
structure Gen where
  chaos : Chaotic
  nx : Bool
  draws : Nat
deriving DecidableEq, Repr

/-- Byte `t` of a 64-bit pattern, byte 0 the least significant (R121). -/
def byteAt (u : BitVec 64) (t : Fin 4) : Byte := u.extractLsb' (8 * t.val) 8

/-- The value of an out-of-range conversion: the configuration's, or the next draw (R10; item 1; log 10). -/
def cvtOor (c : Setup) (draws : Nat) : BitVec 64 := c.cvtOor.getD (Config.cvtOor draws)

/-- The count of draws after an out-of-range conversion: a configuration that fixes CVT_OOR draws nothing. -/
def drawsAfterOor (c : Setup) (draws : Nat) : Nat := if c.cvtOor.isSome then draws else draws + 1

/-- `Extract(alpha, t)` with STATUS.NX and the count of draws after it (R121, R10). -/
def extract (c : Setup) (alpha : F64) (t : Fin 4) (nx : Bool) (draws : Nat) : Byte × Bool × Nat :=
  match trunc64 (fMul alpha c.numerics.extScale) with
  | some u => (byteAt u t, nx, draws)
  | none => (byteAt (cvtOor c draws) t, true, drawsAfterOor c draws)

/-- The three extractions of a state, one per channel, and STATUS.NX and the count of draws after them (R125, R130). -/
def extractAll (c : Setup) (g : Gen) : Three Byte × Bool × Nat :=
  let (e0, nx0, d0) := extract c g.chaos.alpha.ch0 g.chaos.tap.ch0 g.nx g.draws
  let (e1, nx1, d1) := extract c g.chaos.alpha.ch1 g.chaos.tap.ch1 nx0 d0
  let (e2, nx2, d2) := extract c g.chaos.alpha.ch2 g.chaos.tap.ch2 nx1 d1
  (⟨e0, e1, e2⟩, nx2, d2)

/-- The unreduced sum of three extractions (R123). -/
def digitOf (e : Three Byte) : Nat := e.ch0.toNat + e.ch1.toNat + e.ch2.toNat

/-- `Digit(s)` (R123). -/
def digit (c : Setup) (g : Gen) : Nat := digitOf (extractAll c g).1

/-- Step 1, the mix update (R126). -/
def mixStep (mix : Three (Fin 3)) (e : Three Byte) : Three (Fin 3) :=
  Three.ofFn fun i => Fin.ofNat 3 ((mix.get i).val + (e.get i).toNat)

/-- Step 2, the tap update (R127). -/
def tapStep (tap : Three (Fin 4)) (e : Three Byte) : Three (Fin 4) :=
  Three.ofFn fun i => Fin.ofNat 4 ((tap.get i).val + (e.get i).toNat)

/-- Step 3, the Euler step: the three derivatives from the position at the start, then the three components (R128). -/
def eulerStep (num : Numerics) (pos : Three F64) : Three F64 :=
  let x := pos.ch0
  let y := pos.ch1
  let z := pos.ch2
  let f0 := fAdd (fMul num.cX0 x) (fMul num.cY0 y)
  let f1 := fSub (fSub (fMul num.cX1 x) (fMul num.cY1 y)) (fMul x z)
  let f2 := fAdd (fMul x y) (fMul num.cZ2 z)
  ⟨fAdd x (fMul f0 num.dt), fAdd y (fMul f1 num.dt), fAdd z (fMul f2 num.dt)⟩

/-- The four steps of one cycle, given the cycle's extractions (R125 to R129). -/
def cascade (num : Numerics) (s : Chaotic) (e : Three Byte) : Chaotic :=
  let mix := mixStep s.mix e
  let pos := eulerStep num s.pos
  { pos := pos, mix := mix, tap := tapStep s.tap e, alpha := project pos mix }

/-- `UpdateCycle(s)` (R125). -/
def updateCycle (c : Setup) (g : Gen) : Gen :=
  let (e, nx, draws) := extractAll c g
  { chaos := cascade c.numerics g.chaos e, nx := nx, draws := draws }

/-- A data byte combined with a digit, modulo 256 (R151; C8). -/
def combine (dir : Dir) (b : Byte) (d : Nat) : Byte :=
  match dir with
  | .enc => b + BitVec.ofNat 8 d
  | .dec => b - BitVec.ofNat 8 d

/-- `Transform(s, b, dir)` (R151). The digit and the cycle use the same three extractions (R130). -/
def transform (c : Setup) (dir : Dir) (g : Gen) (b : Byte) : Byte × Gen :=
  (combine dir b (digit c g), updateCycle c g)

/-- The state after `k` cycles. -/
def cycles (c : Setup) (g : Gen) : Nat → Gen
  | 0 => g
  | k + 1 => updateCycle c (cycles c g k)

end Sys2Proof.Machine
end

