-- ==== Sys2Proof/Machine/Operands.lean ====
section
/-! DEFINITION. Buffers named by the latched operands, and the validation phase: the checks of each command in their order
(spec 20_memory.md R60, R66, R67, R69, R78; 60_exceptions.md R202, R205, R206). -/

namespace Sys2Proof.Machine

/-- An address lies in a range. -/
def inRangeOf (r : Range) (a : Nat) : Bool := decide (r.base ≤ a ∧ a < r.base + r.size)

/-- An address lies in one of the ranges. -/
def inRanges (rs : List Range) (a : Nat) : Bool := rs.any fun r => inRangeOf r a

/-- The bytes `a` to `a + n - 1` and a range have a byte in common. -/
def rangeMeets (r : Range) (a n : Nat) : Bool :=
  decide (0 < n ∧ 0 < r.size ∧ r.base < a + n ∧ a < r.base + r.size)

/-- Memory stands at the address (R60, MEM_MAP). -/
def holdsMemory (p : Platform) (a : Nat) : Bool := inRanges p.memMap a

/-- The register window (R28). -/
def window (p : Platform) : Range := ⟨p.mmioBase.toNat, 256⟩

/-- A byte of the buffer has read or write side effects, or lies in the engine's own window (R69). -/
def hasSideEffects (p : Platform) (a n : Nat) : Bool :=
  rangeMeets (window p) a n || p.devices.any fun r => rangeMeets r a n

/-- The buffer `[a, a + n)` passes the top of the address space (R67). -/
def outOfRange (a : Word) (n : Nat) : Bool := decide (0 < n ∧ 2 ^ 32 < a.toNat + n)

/-- `partialOverlap(s, d, n)` of R66. -/
def partialOverlap (s d n : Nat) : Bool := decide (0 < n ∧ s ≠ d ∧ s < d + n ∧ d < s + n)

/-- What an error reports: `E(arg, info)` of R204. -/
structure Report where
  err : ErrCode
  arg : ErrArg
  info : Word
deriving DecidableEq, Repr

/-- The first report of a list of checks, each a condition with its report (R206). -/
def firstFailed : List (Bool × Report) → Option Report
  | [] => none
  | (failed, r) :: rest => if failed then some r else firstFailed rest

/-- The checks of KEY_LOAD (R110, R206). -/
def checkKeyLoad (s : State) : Option Report :=
  firstFailed
    [ (s.latch.keyLen != 18, ⟨.invalidKeySize, .key, s.latch.keyLen⟩),
      (outOfRange s.latch.keyAddr 18, ⟨.addressRange, .key, s.latch.keyAddr⟩) ]

/-- The checks of BLOCK_ENC and BLOCK_DEC (R152, R153, R206). -/
def checkBlock (s : State) : Option Report :=
  firstFailed
    [ (!s.keyValid, ⟨.noKey, .none, 0⟩),
      (decide (s.latch.srcLen.toNat < 16), ⟨.bufferTooShort, .source, s.latch.srcLen⟩),
      (decide (s.latch.dstLen.toNat < 16), ⟨.bufferTooShort, .destination, s.latch.dstLen⟩),
      (outOfRange s.latch.srcAddr 16, ⟨.addressRange, .source, s.latch.srcAddr⟩),
      (outOfRange s.latch.dstAddr 16, ⟨.addressRange, .destination, s.latch.dstAddr⟩),
      (partialOverlap s.latch.srcAddr.toNat s.latch.dstAddr.toNat 16, ⟨.bufferOverlap, .destination, s.latch.dstAddr⟩) ]

/-- The check of CHAIN_INIT_ENC and CHAIN_INIT_DEC (R170, R171, R206). -/
def checkChainInit (s : State) : Option Report := firstFailed [ (!s.keyValid, ⟨.noKey, .none, 0⟩) ]

/-- The checks of CHAIN_CRYPT (R175, R206). -/
def checkChainCrypt (s : State) : Option Report :=
  let n := s.latch.srcLen.toNat
  firstFailed
    [ (!s.chainValid, ⟨.noChain, .none, 0⟩),
      (decide (n % 16 ≠ 0), ⟨.unalignedInput, .source, s.latch.srcLen⟩),
      (decide (s.latch.dstLen.toNat < n), ⟨.bufferTooShort, .destination, s.latch.dstLen⟩),
      (outOfRange s.latch.srcAddr n, ⟨.addressRange, .source, s.latch.srcAddr⟩),
      (outOfRange s.latch.dstAddr n, ⟨.addressRange, .destination, s.latch.dstAddr⟩),
      (partialOverlap s.latch.srcAddr.toNat s.latch.dstAddr.toNat n, ⟨.bufferOverlap, .destination, s.latch.dstAddr⟩) ]

end Sys2Proof.Machine
end

