-- ==== Sys2Proof/Machine/Ops.lean ====
section
/-! DEFINITION. The operations every command is made of: bus memory, a command's life (acceptance, completion, completion with an
error), and the work phase access by access (spec 20_memory.md R60 to R78; 60_exceptions.md R200 to R208). -/

namespace Sys2Proof.Machine

/-- The answer of every meaning. -/
abbrev Answer := Host.Outcome State Fault Refusal

/-! ### Bus memory -/

/-- What a byte nothing has written reads as: DESIGN CHOICE, log 5. -/
def Memory.unlisted : Byte := 0

/-- The byte at an address. -/
def Memory.read : Memory → Nat → Byte
  | [], _ => Memory.unlisted
  | (a, v) :: m, x => if a = x then v else Memory.read m x

/-- Memory with one byte written, in canonical form. -/
def Memory.write : Memory → Nat → Byte → Memory
  | [], x, v => if v = Memory.unlisted then [] else [(x, v)]
  | (a, w) :: m, x, v =>
    if x < a then (if v = Memory.unlisted then (a, w) :: m else (x, v) :: (a, w) :: m)
    else if x = a then (if v = Memory.unlisted then m else (x, v) :: m)
    else (a, w) :: Memory.write m x v

/-- Every listed address is at least `low`, the addresses strictly rise and no listed byte is the unlisted one. -/
def Memory.wfFrom : Nat → Memory → Bool
  | _, [] => true
  | low, (a, v) :: m => decide (low ≤ a) && v != Memory.unlisted && Memory.wfFrom (a + 1) m

/-- The canonical form of a memory. -/
def Memory.wf (m : Memory) : Bool := Memory.wfFrom 0 m

/-- What the bus answers to an engine access (R12, R78, R256). -/
inductive BusAnswer (α : Type) where
  | data (v : α)
  | busError
  | noAnswer
deriving DecidableEq, Repr

/-- `MemRead(a, 1)` (R12, R62, R78). -/
def memRead (s : State) (a : Nat) : BusAnswer Byte :=
  if inRanges s.setup.platform.busErrRead a then .busError
  else if holdsMemory s.setup.platform a then .data (s.mem.read a)
  else .noAnswer

/-- `MemWrite(a, 1, v)`: the memory after it (R12, R62, R78). -/
def memWrite (s : State) (a : Nat) (v : Byte) : BusAnswer Memory :=
  if inRanges s.setup.platform.busErrWrite a then .busError
  else if holdsMemory s.setup.platform a then .data (s.mem.write a v)
  else .noAnswer

/-! ### The life of a command -/

/-- Acceptance of the command word `w` (R200). No transient state exists before the command makes one (R23). -/
def accept (w : Word) (s : State) : State :=
  { s with lCmd := w, latch := s.ops, idx := 0, ts := none, held := none, err := .none, errArg := .none, errInfo := 0,
           done := false, busy := true }

/-- The command the engine runs: `decode(L_CMD)` (R84, R200). -/
def fetch (s : State) : Instr := decode s.lCmd

/-- `complete()` (R203); the transient state is discarded (R23, R152). No byte is in flight then. What L_CMD, the latched operands,
IDX and KB hold from here to the next command is open (R27, item 20): DESIGN CHOICE, log 30, they keep what the command left. -/
def complete (s : State) : State := { s with ts := none, held := none, busy := false, done := true }

/-- `raise E(arg, info)`: the one way a command ends with an error (R204). There is no return from it: the host acknowledges by a
write of 1 to STATUS.DONE (`writeStatus`) or by the next command (`accept`) (R212). L_CMD, the latched operands, IDX and KB keep
what the command left: DESIGN CHOICE, log 30. -/
def raiseError (r : Report) (s : State) : State :=
  { s with ts := none, held := none, err := r.err, errArg := r.arg, errInfo := r.info, busy := false, done := true }

/-- An illegal command word (R83, R205). -/
def raiseIllegal (s : State) : State := raiseError ⟨.illegalCommand, .none, s.lCmd⟩ s

/-- CS with a value in every component that no rule states, from draw `d` on (R208; log 13). -/
def lostChaotic (d : Nat) : Chaotic :=
  { pos := ⟨Config.lostF64 d, Config.lostF64 (d + 1), Config.lostF64 (d + 2)⟩,
    mix := ⟨Config.lostMix d, Config.lostMix (d + 1), Config.lostMix (d + 2)⟩,
    tap := ⟨Config.lostTap d, Config.lostTap (d + 1), Config.lostTap (d + 2)⟩,
    alpha := ⟨Config.lostF64 (d + 3), Config.lostF64 (d + 4), Config.lostF64 (d + 5)⟩ }

/-- The chain after a bus error in CHAIN_CRYPT: not valid, its contents and CYCLES free values (R208). -/
def loseChain (s : State) : State :=
  { s with chainValid := false, cs := lostChaotic s.draws, cycles := Config.lostCycles s.draws, draws := s.draws + 6 }

/-! ### The work phase -/

/-- What one access of work leaves: the command goes on, it has ended, or it has no step. -/
inductive Work where
  | going (s : State)
  | ended (s : State)
  | stuck (f : Fault)
deriving DecidableEq, Repr

/-- At most `n` accesses of work, up to the first that ends the command or has no step (R64). -/
def runAccesses (access : State → Work) : Nat → State → Work
  | 0, s => .going s
  | n + 1, s =>
    match access s with
    | .going s' => runAccesses access n s'
    | .ended s' => .ended s'
    | .stuck f => .stuck f

/-- The work phase of a command with `remaining` accesses to make, in a turn that allows `budget` steps: each access is one step,
and completing, after `commit`, is one more (R68, R202, R203, R256). That `commit` and completing are one step is a DESIGN CHOICE,
log 32. -/
def workFor (access : State → Work) (commit : State → State) (budget remaining : Nat) (s : State) : Answer :=
  match runAccesses access (min budget remaining) s with
  | .going s' => if remaining < budget then .next (complete (commit s')) else .next s'
  | .ended s' => .next s'
  | .stuck f => .fault f

/-- A command's validation and, when it passes, its work; a buffer at an address with side effects leaves it without a step
(R69, R202, R204). `buffers` lists base and length of what the command accesses of each buffer, without the tails it leaves alone
(R61): DESIGN CHOICE, log 31. -/
def validated (check : Option Report) (buffers : List (Nat × Nat)) (s : State) (work : Answer) : Answer :=
  match check with
  | some r => .next (raiseError r s)
  | none =>
    if buffers.any (fun b => hasSideEffects s.setup.platform b.1 b.2) then .fault .sideEffectBuffer else work

/-- The accesses that a data command of `n` bytes has left: a read and a write for each byte from IDX on, without the read of a
byte that is held (R64). -/
def accessesLeft (n : Nat) (s : State) : Nat := 2 * (n - s.idx.toNat) - (if s.held.isSome then 1 else 0)

/-- The read of source byte IDX (R64). `lose` is the command's own effect of a bus error (R208). -/
def readAccess (lose : State → State) (s : State) : Work :=
  let src := s.latch.srcAddr.toNat + s.idx.toNat
  match memRead s src with
  | .noAnswer => .stuck .busNoAnswer
  | .busError => .ended (raiseError ⟨.busError, .source, BitVec.ofNat 32 src⟩ (lose s))
  | .data b => .going { s with held := some b }

/-- The write of destination byte IDX, from the source byte `b` transformed under the Chaotic State `c` (R64, R151, R152, R175).
`put` stores the advanced state; `lose` is the command's own effect of a bus error (R208; log 28). -/
def writeAccess (dir : Dir) (c : Chaotic) (put : Chaotic → State → State) (lose : State → State) (b : Byte) (s : State) : Work :=
  let dst := s.latch.dstAddr.toNat + s.idx.toNat
  let (out, g) := transform s.setup dir ⟨c, s.nx, s.draws⟩ b
  let s1 := { s with nx := g.nx, draws := g.draws }
  match memWrite s1 dst out with
  | .noAnswer => .stuck .busNoAnswer
  | .busError => .ended (raiseError ⟨.busError, .destination, BitVec.ofNat 32 dst⟩ (lose s1))
  | .data m => .going (put g.chaos { s1 with mem := m, held := none, idx := s.idx + 1 })

/-- The next access of a data command: the write of the byte it holds, or the read of the next one (R64, R68; log 4). -/
def dataAccess (dir : Dir) (c : Chaotic) (put : Chaotic → State → State) (lose : State → State) (s : State) : Work :=
  match s.held with
  | none => readAccess lose s
  | some b => writeAccess dir c put lose b s

end Sys2Proof.Machine
end

