-- ==== Sys2Proof/Machine/Registers.lean ====
section
/-! DEFINITION. The register window (spec 10_state.md R28 to R44; 20_memory.md R70; 60_exceptions.md R200, R201). -/

namespace Sys2Proof.Machine

/-- The registers of R29. `high` tells the HI half of a 64-bit value from its LO half. -/
inductive Reg where
  | id
  | ctrl
  | cmd
  | status
  | errInfo
  | keyAddr
  | keyLen
  | srcAddr
  | srcLen
  | dstAddr
  | dstLen
  | cyclesHalf (high : Bool)
  | posHalf (n : Fin 3) (high : Bool)
  | alphaHalf (n : Fin 3) (high : Bool)
  | idxr
deriving DecidableEq, Repr

/-- The register map (R29). -/
def regMap : List (BitVec 8 × Reg) :=
  [ (0x00#8, .id), (0x04#8, .ctrl), (0x08#8, .cmd), (0x0C#8, .status), (0x10#8, .errInfo),
    (0x14#8, .keyAddr), (0x18#8, .keyLen), (0x1C#8, .srcAddr), (0x20#8, .srcLen), (0x24#8, .dstAddr), (0x28#8, .dstLen),
    (0x30#8, .cyclesHalf false), (0x34#8, .cyclesHalf true),
    (0x40#8, .posHalf 0 false), (0x44#8, .posHalf 0 true), (0x48#8, .posHalf 1 false), (0x4C#8, .posHalf 1 true),
    (0x50#8, .posHalf 2 false), (0x54#8, .posHalf 2 true),
    (0x58#8, .alphaHalf 0 false), (0x5C#8, .alphaHalf 0 true), (0x60#8, .alphaHalf 1 false), (0x64#8, .alphaHalf 1 true),
    (0x68#8, .alphaHalf 2 false), (0x6C#8, .alphaHalf 2 true),
    (0x70#8, .idxr) ]

/-- The register at a window offset, if the offset is not reserved (R29, R42). -/
def regAt (off : BitVec 8) : Option Reg := regMap.lookup off

/-- The bus address of a window offset (R28, R71). -/
def regAddress (p : Platform) (off : BitVec 8) : Nat := p.mmioBase.toNat + off.toNat

/-- Half of a 64-bit value: bits 63:32 or bits 31:0 (R38, R39, R40, R63). -/
def half (high : Bool) (v : BitVec 64) : Word := if high then v.extractLsb' 32 32 else v.extractLsb' 0 32

/-- A register of the mirror of CS, whose reads are unspecified while BUSY = 1 (R43). -/
def isMirror : Reg → Bool
  | .cyclesHalf _ => true
  | .posHalf _ _ => true
  | .alphaHalf _ _ => true
  | .idxr => true
  | _ => false

/-- What a register reads, a mirror register exactly (R30 to R41). -/
def regValue (s : State) : Reg → Word
  | .id => 0x4C524E43#32
  | .ctrl => ctrlWord s
  | .cmd => 0
  | .status => statusWord s
  | .errInfo => s.errInfo
  | .keyAddr => s.ops.keyAddr
  | .keyLen => s.ops.keyLen
  | .srcAddr => s.ops.srcAddr
  | .srcLen => s.ops.srcLen
  | .dstAddr => s.ops.dstAddr
  | .dstLen => s.ops.dstLen
  | .cyclesHalf high => half high s.cycles
  | .posHalf n high => half high (s.cs.pos.get n)
  | .alphaHalf n high => half high (s.cs.alpha.get n)
  | .idxr => idxrWord s.cs

/-- A read at an offset: the value, and the count of draws after it. Reserved offsets read 0 (R42); a mirror register read while
BUSY = 1 returns a draw (R43; item 17; log 12). -/
def readOffset (s : State) (off : BitVec 8) : Word × Nat :=
  match regAt off with
  | none => (0, s.draws)
  | some r => if s.busy && isMirror r then (Config.mirrorWord s.draws, s.draws + 1) else (regValue s r, s.draws)

/-- A write of `v` to CMD: accepted when idle, dropped with OVR set when busy (R32, R200, R201). -/
def writeCmd (v : Word) (s : State) : State := if s.busy then { s with ovr := true } else accept v s

/-- A write to a register. Read-only registers ignore it; a write to CTRL or an operand register is taken at any time (R29, R44). -/
def writeReg (r : Reg) (v : Word) (s : State) : State :=
  match r with
  | .ctrl => writeCtrl v s
  | .cmd => writeCmd v s
  | .status => writeStatus v s
  | .keyAddr => { s with ops := { s.ops with keyAddr := v } }
  | .keyLen => { s with ops := { s.ops with keyLen := v } }
  | .srcAddr => { s with ops := { s.ops with srcAddr := v } }
  | .srcLen => { s with ops := { s.ops with srcLen := v } }
  | .dstAddr => { s with ops := { s.ops with dstAddr := v } }
  | .dstLen => { s with ops := { s.ops with dstLen := v } }
  | .id => s
  | .errInfo => s
  | .cyclesHalf _ => s
  | .posHalf _ _ => s
  | .alphaHalf _ _ => s
  | .idxr => s

/-- A write at an offset. Reserved offsets ignore it (R42). -/
def writeOffset (off : BitVec 8) (v : Word) (s : State) : State :=
  match regAt off with
  | none => s
  | some r => writeReg r v s

/-- A register access is an aligned 32-bit one (R28, R70). -/
def properAccess (w : Width) (off : BitVec 8) : Bool := w == .w32 && off.toNat % 4 == 0

/-- A register read (R70): it changes nothing in the engine; the reply is the reader's. -/
def regRead (w : Width) (off : BitVec 8) (s : State) : Answer :=
  if properAccess w off then
    let (v, draws) := readOffset s off
    .next { s with replies := s.replies ++ [.reg off v], draws := draws }
  else .refused (.badRegisterAccess s.setup.platform.mmioBadAccess)

/-- A register write (R70). -/
def regWrite (w : Width) (off : BitVec 8) (v : Word) (s : State) : Answer :=
  if properAccess w off then .next (writeOffset off v s)
  else .refused (.badRegisterAccess s.setup.platform.mmioBadAccess)

end Sys2Proof.Machine
end

