-- ==== Sys2Proof/Machine/BlockCipher.lean ====
section
/-! DEFINITION. BLOCK_ENC and BLOCK_DEC (spec 42_block_cipher.md R150 to R153). -/

namespace Sys2Proof.Machine

/-- The transient state of a single-block command: the one it holds, or KeySchedule(KEY) when it holds none yet (R23, R152). -/
def transient (s : State) : Chaotic := s.ts.getD (keySchedule s.setup s.key)

/-- The command makes its transient state (R152). -/
def deriveTs (s : State) : State := { s with ts := some (transient s) }

/-- One access of a single-block command (R152). -/
def blockAccess (dir : Dir) (s : State) : Work :=
  dataAccess dir (transient s) (fun c s' => { s' with ts := some c }) id s

/-- A single-block command in a turn of `budget` steps. A side-effect address stops it only within the 16 bytes it accesses of a
buffer, not in the unused tail of a longer one (R61, R69): DESIGN CHOICE, log 31. -/
def blockFor (dir : Dir) (budget : Nat) (s : State) : Answer :=
  validated (checkBlock s) [(s.latch.srcAddr.toNat, 16), (s.latch.dstAddr.toNat, 16)] s
    (workFor (blockAccess dir) id budget (accessesLeft 16 s) (deriveTs s))

/-- BLOCK_ENC (R152), from where it stands to its end. -/
def execBlockEnc (s : State) : Answer := blockFor .enc (accessesLeft 16 s + 1) s

/-- BLOCK_DEC (R153), from where it stands to its end. -/
def execBlockDec (s : State) : Answer := blockFor .dec (accessesLeft 16 s + 1) s

end Sys2Proof.Machine
end

