-- ==== Sys2Proof/Machine/Chaining.lean ====
section
/-! DEFINITION. CHAIN_INIT_ENC, CHAIN_INIT_DEC and CHAIN_CRYPT (spec 43_chaining_mode.md R170 to R177). -/

namespace Sys2Proof.Machine

/-- A chaining instance is constructed from the key (R170, R171), in the step that completes (DESIGN CHOICE, log 32). -/
def chainInit (dir : Dir) (s : State) : Answer :=
  match checkChainInit s with
  | some r => .next (raiseError r s)
  | none =>
    .next (complete { s with cs := keySchedule s.setup s.key, chainDir := dir, cycles := 0, chainValid := true })

/-- CHAIN_INIT_ENC (R170). -/
def execChainInitEnc (s : State) : Answer := chainInit .enc s

/-- CHAIN_INIT_DEC (R171). -/
def execChainInitDec (s : State) : Answer := chainInit .dec s

/-- One access of CHAIN_CRYPT: with each byte written, CS is advanced in place and CYCLES counts the cycle (R175). -/
def chainAccess (s : State) : Work :=
  dataAccess s.chainDir s.cs (fun c s' => { s' with cs := c, cycles := s'.cycles + 1 }) loseChain s

/-- CHAIN_CRYPT in a turn of `budget` steps. A side-effect address stops it only within the L_SRC_LEN bytes it accesses of a buffer,
not in the unused tail of a longer destination (R61, R69): DESIGN CHOICE, log 31. -/
def chainCryptFor (budget : Nat) (s : State) : Answer :=
  let n := s.latch.srcLen.toNat
  validated (checkChainCrypt s) [(s.latch.srcAddr.toNat, n), (s.latch.dstAddr.toNat, n)] s
    (workFor chainAccess id budget (accessesLeft n s) s)

/-- CHAIN_CRYPT (R175), from where it stands to its end. -/
def execChainCrypt (s : State) : Answer := chainCryptFor (accessesLeft s.latch.srcLen.toNat s + 1) s

end Sys2Proof.Machine
end

