-- ==== Sys2Proof/Machine/Control.lean ====
section
/-! DEFINITION. NOP, CLEAR and the illegal command words (spec 44_control_commands.md R190, R191; 30_encoding.md R83). -/

namespace Sys2Proof.Machine

/-- NOP (R190). -/
def execNop (s : State) : Answer := .next (complete s)

/-- The key and the chain state at their reset values (R191). KB is none of them: the rule does not name it, and between commands
it may hold any value (R27, item 20). DESIGN CHOICE, log 30: CLEAR leaves KB as it is, so it may still hold the bytes of a key. -/
def clearKeyAndChain (s : State) : State :=
  { s with key := zeroKey, keyValid := false, cs := zeroChaotic, chainValid := false, chainDir := .enc, cycles := 0 }

/-- CLEAR (R191). Its assignments and its completion are one step, so no read of STATUS falls between them: DESIGN CHOICE, log 32, the
spec does not say whether BUSY = 1 can be seen with KEY_VALID, CHAIN_VALID or CHAIN_DIR already 0. -/
def execClear (s : State) : Answer := .next (complete (clearKeyAndChain s))

/-- A reserved word with OPC 0x08 to 0x0F (R83). -/
def execIllegalOpc08 (s : State) : Answer := .next (raiseIllegal s)

/-- A reserved word with OPC 0x10 to 0x1F (R83). -/
def execIllegalOpc10 (s : State) : Answer := .next (raiseIllegal s)

/-- A reserved word with OPC 0x20 to 0x3F (R83). -/
def execIllegalOpc20 (s : State) : Answer := .next (raiseIllegal s)

/-- A reserved word with OPC 0x40 to 0x7F (R83). -/
def execIllegalOpc40 (s : State) : Answer := .next (raiseIllegal s)

/-- A reserved word with OPC 0x80 to 0xFF (R83). -/
def execIllegalOpc80 (s : State) : Answer := .next (raiseIllegal s)

/-- A word with RSV ≠ 0 (R83). -/
def execIllegalRsv (s : State) : Answer := .next (raiseIllegal s)

end Sys2Proof.Machine
end

