-- ==== Sys2Proof/Machine/KeyLoad.lean ====
section
/-! DEFINITION. KEY_LOAD (spec 40_key_schedule.md R110, R111). -/

namespace Sys2Proof.Machine

/-- Key byte IDX is read into KB (R64, R110). IDX counts the bytes read (R27; log 25). -/
def keyByte (s : State) : Work :=
  let a := s.latch.keyAddr.toNat + s.idx.toNat
  match memRead s a with
  | .noAnswer => .stuck .busNoAnswer
  | .busError => .ended (raiseError ⟨.busError, .key, BitVec.ofNat 32 a⟩ s)
  | .data b => .going { s with kb := s.kb.setIfInBounds s.idx.toNat b, idx := s.idx + 1 }

/-- The 18 bytes gathered in KB become the key, and the chain ends (R110, R111), in the step that completes (DESIGN CHOICE, log 32). -/
def commitKey (s : State) : State := { s with key := s.kb, keyValid := true, chainValid := false }

/-- KEY_LOAD in a turn of `budget` steps. -/
def keyLoadFor (budget : Nat) (s : State) : Answer :=
  validated (checkKeyLoad s) [(s.latch.keyAddr.toNat, 18)] s (workFor keyByte commitKey budget (18 - s.idx.toNat) s)

/-- KEY_LOAD (R110), from where it stands to its end. -/
def execKeyLoad (s : State) : Answer := keyLoadFor (18 - s.idx.toNat + 1) s

end Sys2Proof.Machine
end

