-- ==== Sys2Proof/Machine/Dispatch.lean ====
section
/-! DEFINITION. One arm per command (spec 30_encoding.md R82 to R84). -/

namespace Sys2Proof.Machine

-- A command runs from where it stands (fresh after acceptance, or after the engine's earlier turns) to its end.
def exec (i : Instr) (s : State) : Host.Outcome State Fault Refusal :=
  match i with
  | .nop => Sys2Proof.Machine.execNop s
  | .keyLoad => Sys2Proof.Machine.execKeyLoad s
  | .blockEnc => Sys2Proof.Machine.execBlockEnc s
  | .blockDec => Sys2Proof.Machine.execBlockDec s
  | .chainInitEnc => Sys2Proof.Machine.execChainInitEnc s
  | .chainInitDec => Sys2Proof.Machine.execChainInitDec s
  | .chainCrypt => Sys2Proof.Machine.execChainCrypt s
  | .clear => Sys2Proof.Machine.execClear s
  | .illegalOpc08 _ => Sys2Proof.Machine.execIllegalOpc08 s
  | .illegalOpc10 _ => Sys2Proof.Machine.execIllegalOpc10 s
  | .illegalOpc20 _ => Sys2Proof.Machine.execIllegalOpc20 s
  | .illegalOpc40 _ => Sys2Proof.Machine.execIllegalOpc40 s
  | .illegalOpc80 _ => Sys2Proof.Machine.execIllegalOpc80 s
  | .illegalRsv _ => Sys2Proof.Machine.execIllegalRsv s

end Sys2Proof.Machine
end

