-- ==== Sys2Proof/Machine/Turn.lean ====
section
/-! DEFINITION. One turn of the engine between the actions of other agents (spec 60_exceptions.md R202; 70_reset_and_hazards.md
R251, R256): a command run for at most a given number of steps, where `exec` runs it to its end. -/

namespace Sys2Proof.Machine

/-- A command that makes no access: all it does, its completion among it, is one step (DESIGN CHOICE, log 32). -/
def unlessZero (budget : Nat) (whole : Answer) (s : State) : Answer :=
  match budget with
  | 0 => .next s
  | _ + 1 => whole

/-- The command `i` in a turn of `budget` steps: an access is one step, completing is one. -/
def execFor (budget : Nat) (i : Instr) (s : State) : Answer :=
  match i with
  | .nop => unlessZero budget (exec i s) s
  | .keyLoad => keyLoadFor budget s
  | .blockEnc => blockFor .enc budget s
  | .blockDec => blockFor .dec budget s
  | .chainInitEnc => unlessZero budget (exec i s) s
  | .chainInitDec => unlessZero budget (exec i s) s
  | .chainCrypt => chainCryptFor budget s
  | .clear => unlessZero budget (exec i s) s
  | .illegalOpc08 _ => unlessZero budget (exec i s) s
  | .illegalOpc10 _ => unlessZero budget (exec i s) s
  | .illegalOpc20 _ => unlessZero budget (exec i s) s
  | .illegalOpc40 _ => unlessZero budget (exec i s) s
  | .illegalOpc80 _ => unlessZero budget (exec i s) s
  | .illegalRsv _ => unlessZero budget (exec i s) s

/-- The engine's turn. An idle engine does nothing (R226). -/
def engineTurn (budget : Nat) (s : State) : Answer :=
  if s.busy then execFor budget (fetch s) s else .next s

end Sys2Proof.Machine
end

