-- ==== Sys2Proof/Machine/Environment.lean ====
section
/-! DEFINITION. What the other agents do: the host's memory accesses through its caches, other masters' writes, reset
(spec 20_memory.md R68, R73, R77; 70_reset_and_hazards.md R240, R251, R254). -/

namespace Sys2Proof.Machine

/-- An address is plain memory: MEM_MAP holds it and it has no side effects (R60, R69). -/
def plainMemory (p : Platform) (a : Nat) : Bool := holdsMemory p a && !hasSideEffects p a 1

/-- What the host's caches hold for an address. -/
def cached (s : State) (a : Nat) : Option CacheLine := s.hostCache.find? fun l => l.addr == a

/-- The host's caches with one byte held, replacing what they held for its address. -/
def cacheWith (l : CacheLine) (s : State) : List CacheLine := l :: s.hostCache.filter fun x => x.addr != l.addr

/-- A host store: to memory when engine accesses are coherent with the host's caches, otherwise into the caches (R73, R77). -/
def hostStore (a : Word) (v : Byte) (s : State) : Answer :=
  if !plainMemory s.setup.platform a.toNat then .refused .hostAccessOutsideMemory
  else if s.setup.platform.memCoherent then .next { s with mem := s.mem.write a.toNat v }
  else .next { s with hostCache := cacheWith ⟨a.toNat, v, true⟩ s }

/-- The byte a host load gives: the cached one when not coherent and cached, else memory's (R73, R77). -/
def hostSees (s : State) (a : Nat) : Byte :=
  if s.setup.platform.memCoherent then s.mem.read a
  else match cached s a with
    | some l => l.byte
    | none => s.mem.read a

/-- A host load. Without coherence the byte stays in the host's caches until it is invalidated (R73, R77). -/
def hostLoad (a : Word) (s : State) : Answer :=
  if !plainMemory s.setup.platform a.toNat then .refused .hostAccessOutsideMemory
  else
    let v := hostSees s a.toNat
    let kept := if s.setup.platform.memCoherent || (cached s a.toNat).isSome then s.hostCache
      else cacheWith ⟨a.toNat, v, false⟩ s
    .next { s with hostCache := kept, replies := s.replies ++ [.mem a v] }

/-- The host writes a dirty cached byte back to memory (R77, R254). -/
def hostClean (a : Word) (s : State) : State :=
  match cached s a.toNat with
  | some l =>
    if l.dirty then { s with mem := s.mem.write a.toNat l.byte, hostCache := cacheWith ⟨a.toNat, l.byte, false⟩ s } else s
  | none => s

/-- The host drops its cached copy of a byte (R77, R254). -/
def hostInvalidate (a : Word) (s : State) : State :=
  { s with hostCache := s.hostCache.filter fun x => x.addr != a.toNat }

/-- Another bus master writes a byte of memory (R68, R251). -/
def busWrite (a : Word) (v : Byte) (s : State) : Answer :=
  if !plainMemory s.setup.platform a.toNat then .refused .hostAccessOutsideMemory
  else .next { s with mem := s.mem.write a.toNat v }

/-- The platform's reset input (R240): every piece of the engine's state takes its reset value. What is not the engine's stays:
memory with the bytes a running command has written, the host's caches, the configuration and the model's own fields (log 23). -/
def resetEngine (s : State) : State :=
  { State.reset with mem := s.mem, hostCache := s.hostCache, setup := s.setup, inputs := s.inputs, replies := s.replies,
                     draws := s.draws }

/-- One event, with the later events still in `s.inputs`. -/
def happen (e : Event) (s : State) : Answer :=
  match e with
  | .regRead w off => regRead w off s
  | .regWrite w off v => regWrite w off v s
  | .hostStore a v => hostStore a v s
  | .hostLoad a => hostLoad a s
  | .hostClean a => .next (hostClean a s)
  | .hostInvalidate a => .next (hostInvalidate a s)
  | .busWrite a v => busWrite a v s
  | .reset => .next (resetEngine s)
  | .engine n => engineTurn n s

/-- With no event left a busy engine runs its command to the end (R256) and an idle one stays as it is (R226). -/
def engineAlone (s : State) : Answer := if s.busy then exec (fetch s) s else .next s

end Sys2Proof.Machine
end

