-- ==== Sys2Proof/Machine/Step.lean ====
section
/-! DEFINITION. One step of the machine (spec 60_exceptions.md R200 to R204; 70_reset_and_hazards.md R256): the oldest event of the
list happens; with no event left, a busy engine runs its command to the end and an idle one stays as it is (R226). -/

namespace Sys2Proof.Machine

def step (s : State) : Host.Outcome State Fault Refusal :=
  match s.inputs with
  | e :: rest => happen e { s with inputs := rest }
  | [] => engineAlone s

/-- The state whose next step runs the command word `w`: the word just accepted, as a write to CMD leaves it (R200), and no event
before it (log 2). A command is one 32-bit word (R85), so `nbits` says nothing more. -/
def State.withFetchWord (s : State) (_nbits w : Nat) : State :=
  accept (BitVec.ofNat 32 w) { s with inputs := [] }

end Sys2Proof.Machine
end

