-- ==== Sys2Proof/Machine/HostForms.lean ====
section
/-! DEFINITION. The host's written forms and the pseudo-operations that expand to them (spec 30_encoding.md R86, R87). A form is run
on the machine by the machine's own events; what the host reads and checks is the host's, not the machine's, and stands in `HostRun`. -/

namespace Sys2Proof.Machine

/-- The window offset of a register (R29). -/
def offsetOf (r : Reg) : BitVec 8 := ((regMap.find? fun p => p.2 == r).map (·.1)).getD 0

/-- A form of the host notation (R86). -/
inductive HostForm where
  /-- `WR <reg>, <v>` -/
  | wr (r : Reg) (v : Word)
  /-- `RD <reg> -> <name>` -/
  | rd (r : Reg) (name : String)
  /-- `CMD <mnemonic>` -/
  | cmd (i : Instr)
  /-- `WAIT`. `between` lists what the engine and other agents do before each poll, which the spec does not bound (R202, R256): see
  `runWait`. -/
  | wait (between : List (List Event))
  /-- `MEM <addr> = <bytes>` -/
  | mem (a : Word) (bytes : List Byte)
  /-- `EXPECT <reg>[<hi>:<lo>] = <v>` -/
  | expect (r : Reg) (hi lo : Nat) (v : Word)
deriving DecidableEq, Repr

/-- A value the host has read, and the name it gave it (R86). -/
structure ReadValue where
  reg : Reg
  name : String
  value : Word
deriving DecidableEq, Repr

/-- A host program under way: the machine, the values read so far, newest first, and whether every check so far has held. -/
structure HostRun where
  machine : State
  reads : List ReadValue
  passed : Bool
deriving DecidableEq, Repr

/-- How a form or a program ends: it goes on, or the machine has no step. -/
abbrev HostAnswer := Host.Outcome HostRun Fault Refusal

/-- A host program before its first form. -/
def HostRun.start (s : State) : HostRun := { machine := s, reads := [], passed := true }

/-- One event as the machine's next step, before the events that already wait. -/
def perform (e : Event) (s : State) : Answer := step { s with inputs := e :: s.inputs }

/-- Events one after another. -/
def performAll : List Event → State → Answer
  | [], s => .next s
  | e :: es, s =>
    match perform e s with
    | .next t => performAll es t
    | .fault f => .fault f
    | .refused f => .refused f

/-- The run `r` with its machine changed by an answer. -/
def HostRun.onMachine (r : HostRun) : Answer → HostAnswer
  | .next t => .next { r with machine := t }
  | .fault f => .fault f
  | .refused f => .refused f

/-- `RD <reg> -> <name>`: an aligned 32-bit read; its value is named (R86). -/
def runRead (reg : Reg) (name : String) (r : HostRun) : HostAnswer :=
  { r with reads := ⟨reg, name, (readOffset r.machine (offsetOf reg)).1⟩ :: r.reads }.onMachine
    (perform (.regRead .w32 (offsetOf reg)) r.machine)

/-- BUSY in the newest value read. -/
def HostRun.sawBusy (r : HostRun) : Bool :=
  match r.reads with
  | [] => true
  | v :: _ => v.value.getLsbD 0

/-- `WAIT`: repeat `RD STATUS -> s` until s[0] = 0 (R86). Before each poll the events of one entry of `between` happen; a poll that
reads BUSY = 0 ends the form. When the list is used up and BUSY has not read 0, the engine is left alone to the end of its command,
which it reaches (R256), and the next poll is the last. Log 33. -/
def runWait : List (List Event) → HostRun → HostAnswer
  | [], r =>
    match engineAlone r.machine with
    | .next t => runRead .status "s" { r with machine := t }
    | .fault f => .fault f
    | .refused f => .refused f
  | es :: rest, r =>
    match performAll es r.machine with
    | .fault f => .fault f
    | .refused f => .refused f
    | .next t =>
      match runRead .status "s" { r with machine := t } with
      | .next r' => if r'.sawBusy then runWait rest r' else .next r'
      | .fault f => .fault f
      | .refused f => .refused f

/-- `MEM <addr> = <bytes>`: host stores at consecutive addresses, each made visible to the engine (R73, R86). The rule asks for that
only before the next CMD: DESIGN CHOICE, log 35, each byte is visible at once, by a clean right after its store, even while a command
runs. No address follows
0xFFFFFFFF (R60): DESIGN CHOICE, log 34, a byte that would pass it is refused, and the bytes before it are stored. -/
def runMem : Nat → List Byte → State → Answer
  | _, [], s => .next s
  | a, b :: bs, s =>
    if 2 ^ 32 ≤ a then .refused .hostAccessOutsideMemory
    else match performAll [.hostStore (BitVec.ofNat 32 a) b, .hostClean (BitVec.ofNat 32 a)] s with
      | .next t => runMem (a + 1) bs t
      | .fault f => .fault f
      | .refused f => .refused f

/-- Bits `hi` to `lo` of a word (R8). -/
def fieldOf (w : Word) (hi lo : Nat) : Nat := w.toNat / 2 ^ lo % 2 ^ (hi + 1 - lo)

/-- Whether `<reg>[<hi>:<lo>] = <v>` holds of the newest value read from the register; with none read it does not. Log 33. -/
def expectHolds (reads : List ReadValue) (reg : Reg) (hi lo : Nat) (v : Word) : Bool :=
  match reads.find? fun x => x.reg == reg with
  | some x => fieldOf x.value hi lo == v.toNat
  | none => false

/-- One form (R86). EXPECT has no effect on the machine. -/
def runForm (f : HostForm) (r : HostRun) : HostAnswer :=
  match f with
  | .wr reg v => r.onMachine (perform (.regWrite .w32 (offsetOf reg) v) r.machine)
  | .rd reg name => runRead reg name r
  | .cmd i => r.onMachine (perform (.regWrite .w32 (offsetOf .cmd) (encode i)) r.machine)
  | .wait between => runWait between r
  | .mem a bytes => r.onMachine (runMem a.toNat bytes r.machine)
  | .expect reg hi lo v => .next { r with passed := r.passed && expectHolds r.reads reg hi lo v }

/-- A host program: its forms in order (R86). A check that fails stops nothing. `gaps` lists what the engine and other agents do before
each form, which the spec does not bound (R202, R257, item 26): any list of events may stand there. DESIGN CHOICE, log 33: where the
list is used up, nothing happens between two forms. -/
def runForms : List (List Event) → List HostForm → HostRun → HostAnswer
  | _, [], r => .next r
  | gaps, f :: fs, r =>
    match performAll (gaps.headD []) r.machine with
    | .fault e => .fault e
    | .refused e => .refused e
    | .next t =>
      match runForm f { r with machine := t } with
      | .next r' => runForms gaps.tail fs r'
      | .fault e => .fault e
      | .refused e => .refused e

/-! ### The pseudo-operations, each the forms it expands to (R87) -/

/-- `LOADKEYN a, n`. -/
def formLoadKeyN (a n : Word) (between : List (List Event)) : List HostForm :=
  [.wr .keyAddr a, .wr .keyLen n, .cmd .keyLoad, .wait between]

/-- `LOADKEY a`. -/
def formLoadKey (a : Word) (between : List (List Event)) : List HostForm := formLoadKeyN a 18 between

/-- The register writes that name source and destination, each with its length. -/
def formBuffers (d s n : Word) : List HostForm := [.wr .srcAddr s, .wr .srcLen n, .wr .dstAddr d, .wr .dstLen n]

/-- `ENCBLK d, s`. -/
def formEncBlk (d s : Word) (between : List (List Event)) : List HostForm :=
  formBuffers d s 16 ++ [.cmd .blockEnc, .wait between]

/-- `DECBLK d, s`. -/
def formDecBlk (d s : Word) (between : List (List Event)) : List HostForm :=
  formBuffers d s 16 ++ [.cmd .blockDec, .wait between]

/-- `CHINIT.E`. -/
def formChInitE (between : List (List Event)) : List HostForm := [.cmd .chainInitEnc, .wait between]

/-- `CHINIT.D`. -/
def formChInitD (between : List (List Event)) : List HostForm := [.cmd .chainInitDec, .wait between]

/-- `CHCRYPT d, s, n`. -/
def formChCrypt (d s n : Word) (between : List (List Event)) : List HostForm :=
  formBuffers d s n ++ [.cmd .chainCrypt, .wait between]

/-- `CHECK`: `RD STATUS -> s; EXPECT STATUS[11:8] = 0`. -/
def formCheck : List HostForm := [.rd .status "s", .expect .status 11 8 0]

end Sys2Proof.Machine
end

