-- ==== Sys2Proof/Safety.lean ====
section
/-! DEFINITION. The terms claims use: the machine's invariant, when a command's buffers can be used, what the host owes a running
command, and the rational value of a binary64 pattern (spec 10_state.md R21; 20_memory.md R66 to R69, R78; 60_exceptions.md R205;
70_reset_and_hazards.md R250 to R252). -/

namespace Sys2Proof.Safety

open Sys2Proof.Machine

/-! ### The invariant -/

/-- `alpha[i] = position[mix_index[i]]` for every channel (R21); the index ranges of R21 are in the types. -/
abbrev AlphaMatches (c : Chaotic) : Prop := c.alpha = project c.pos c.mix

/-- The pairs of error code and error argument that R205 lists. -/
def reportable : List (ErrCode × ErrArg) :=
  [ (.none, .none), (.invalidKeySize, .key), (.bufferTooShort, .source), (.bufferTooShort, .destination),
    (.unalignedInput, .source), (.bufferOverlap, .destination), (.illegalCommand, .none), (.noKey, .none), (.noChain, .none),
    (.busError, .key), (.busError, .source), (.busError, .destination),
    (.addressRange, .key), (.addressRange, .source), (.addressRange, .destination) ]

/-- What holds of every state a run from reset reaches. -/
structure MachineInv (s : State) : Prop where
  /-- memory is in canonical form -/
  memory : s.mem.wf = true
  /-- a live chain was derived from a key the engine still holds (R22, R26) -/
  chainHasKey : s.chainValid = true → s.keyValid = true
  /-- R21 for a live chain state; after a bus error CS holds free values and is not live (R208) -/
  chainAlpha : s.chainValid = true → AlphaMatches s.cs
  /-- R21 for the transient state -/
  transientAlpha : ∀ c, s.ts = some c → AlphaMatches c
  /-- the transient state exists only while a command runs (R23) -/
  transientBusy : s.ts.isSome = true → s.busy = true
  /-- a byte is in flight only while a command runs (R64, R201) -/
  heldBusy : s.held.isSome = true → s.busy = true
  /-- acceptance clears DONE and completion sets it (R33) -/
  busyNotDone : s.busy = true → s.done = false
  /-- acceptance clears the error report and completion writes it (R33, R34) -/
  busyNoReport : s.busy = true → s.err = .none ∧ s.errArg = .none ∧ s.errInfo = 0
  /-- KEY is zero when no key is held (R24, R45, R191) -/
  noKeyZero : s.keyValid = false → s.key = zeroKey
  /-- the error report is one that R205 lists -/
  report : (s.err, s.errArg) ∈ reportable

/-- The Chaotic State `n` cycles after its derivation from the key (R25). With a configuration that fixes CVT_OOR it depends on
nothing else. -/
def chaosAfter (c : Setup) (key : Vector Byte 18) (n : Nat) : Chaotic :=
  (cycles c ⟨keySchedule c key, false, 0⟩ n).chaos

/-- A live chain state is the one CYCLES cycles after the derivation from KEY (R22, R25, R38); CYCLES counts modulo 2^64. -/
def ChainFollowsKey (s : State) : Prop :=
  s.chainValid = true → ∃ n : Nat, s.cycles = BitVec.ofNat 64 n ∧ s.cs = chaosAfter s.setup s.key n

/-! ### Commands and their buffers -/

/-- The command has just been accepted: no byte moved or in flight, no transient state (R200, R23). -/
abbrev Fresh (s : State) : Prop := s.idx = 0 ∧ s.ts = none ∧ s.held = none

/-- Every engine read of the buffer is answered with data (R60, R78). -/
abbrev ReadsAnswered (p : Platform) (a n : Nat) : Prop :=
  ∀ k, k < n → inRanges p.busErrRead (a + k) = false ∧ holdsMemory p (a + k) = true

/-- Every engine write of the buffer is performed (R60, R78). -/
abbrev WritesAnswered (p : Platform) (a n : Nat) : Prop :=
  ∀ k, k < n → inRanges p.busErrWrite (a + k) = false ∧ holdsMemory p (a + k) = true

/-- The address of source byte 0. -/
def src (s : State) : Nat := s.latch.srcAddr.toNat

/-- The address of destination byte 0. -/
def dst (s : State) : Nat := s.latch.dstAddr.toNat

/-- The address of key byte 0. -/
def keyBase (s : State) : Nat := s.latch.keyAddr.toNat

/-- What a command asks of the platform: its checks, and base and length of what it reads and writes once they pass (R61, R206). -/
structure Demand where
  check : Option Report
  reads : List (Nat × Nat)
  writes : List (Nat × Nat)

/-- A command that makes no access. -/
def noDemand : Demand := { check := none, reads := [], writes := [] }

/-- What the command `i` asks of the platform in the state `s` (R61). -/
def demand (i : Instr) (s : State) : Demand :=
  match i with
  | .nop => noDemand
  | .keyLoad => { check := checkKeyLoad s, reads := [(keyBase s, 18)], writes := [] }
  | .blockEnc => { check := checkBlock s, reads := [(src s, 16)], writes := [(dst s, 16)] }
  | .blockDec => { check := checkBlock s, reads := [(src s, 16)], writes := [(dst s, 16)] }
  | .chainInitEnc => noDemand
  | .chainInitDec => noDemand
  | .chainCrypt =>
    { check := checkChainCrypt s, reads := [(src s, s.latch.srcLen.toNat)], writes := [(dst s, s.latch.srcLen.toNat)] }
  | .clear => noDemand
  | .illegalOpc08 _ => noDemand
  | .illegalOpc10 _ => noDemand
  | .illegalOpc20 _ => noDemand
  | .illegalOpc40 _ => noDemand
  | .illegalOpc80 _ => noDemand
  | .illegalRsv _ => noDemand

/-- The address has side effects: it is in the engine's own register window or a device's (R69; log 17). -/
def sideEffectAt (p : Platform) (a : Nat) : Bool :=
  decide (p.mmioBase.toNat ≤ a ∧ a < p.mmioBase.toNat + 256) || p.devices.any fun r => decide (r.base ≤ a ∧ a < r.base + r.size)

/-- The platform leaves the command its steps: if its checks pass, the bytes it accesses have no side effects (R69; log 31), and the bus
answers each access, with data or with a bus error (R78, R256). -/
abbrev PlatformServes (i : Instr) (s : State) : Prop :=
  (demand i s).check = none →
    (∀ b ∈ (demand i s).reads ++ (demand i s).writes, ∀ k, k < b.2 → sideEffectAt s.setup.platform (b.1 + k) = false) ∧
    (∀ b ∈ (demand i s).reads, ∀ k, k < b.2 →
      holdsMemory s.setup.platform (b.1 + k) = true ∨ inRanges s.setup.platform.busErrRead (b.1 + k) = true) ∧
    (∀ b ∈ (demand i s).writes, ∀ k, k < b.2 →
      holdsMemory s.setup.platform (b.1 + k) = true ∨ inRanges s.setup.platform.busErrWrite (b.1 + k) = true)

/-- A single-block command passes its checks (R152, R206) and the bytes it accesses have no side effects (R69; log 31). -/
abbrev BlockPasses (s : State) : Prop :=
  s.keyValid = true ∧ 16 ≤ s.latch.srcLen.toNat ∧ 16 ≤ s.latch.dstLen.toNat ∧ src s + 16 ≤ 2 ^ 32 ∧ dst s + 16 ≤ 2 ^ 32 ∧
  partialOverlap (src s) (dst s) 16 = false ∧
  hasSideEffects s.setup.platform (src s) 16 = false ∧ hasSideEffects s.setup.platform (dst s) 16 = false

/-- CHAIN_CRYPT of `n` bytes passes its checks (R175, R206) and the bytes it accesses have no side effects (R69; log 31). -/
abbrev ChainPasses (s : State) (n : Nat) : Prop :=
  s.chainValid = true ∧ s.latch.srcLen.toNat = n ∧ n % 16 = 0 ∧ n ≤ s.latch.dstLen.toNat ∧
  (0 < n → src s + n ≤ 2 ^ 32) ∧ (0 < n → dst s + n ≤ 2 ^ 32) ∧ partialOverlap (src s) (dst s) n = false ∧
  hasSideEffects s.setup.platform (src s) n = false ∧ hasSideEffects s.setup.platform (dst s) n = false

/-- KEY_LOAD passes its checks (R110, R206) and its buffer has no side effects (R69). -/
abbrev KeyPasses (s : State) : Prop :=
  s.latch.keyLen = 18 ∧ keyBase s + 18 ≤ 2 ^ 32 ∧ hasSideEffects s.setup.platform (keyBase s) 18 = false

/-- Every access of the `n` bytes a data command moves is answered with data. -/
abbrev DataAnswered (s : State) (n : Nat) : Prop :=
  ReadsAnswered s.setup.platform (src s) n ∧ WritesAnswered s.setup.platform (dst s) n

/-- A fresh single-block command that will run to its end. -/
abbrev BlockReady (s : State) : Prop := Fresh s ∧ s.mem.wf = true ∧ BlockPasses s ∧ DataAnswered s 16

/-- A fresh CHAIN_CRYPT of `n` bytes that will run to its end. -/
abbrev ChainReady (s : State) (n : Nat) : Prop := Fresh s ∧ s.mem.wf = true ∧ ChainPasses s n ∧ DataAnswered s n

/-- The first access that fails is the read of source byte `k` (R78, R208). -/
abbrev ReadFailsAt (s : State) (k : Nat) : Prop :=
  DataAnswered s k ∧ inRanges s.setup.platform.busErrRead (src s + k) = true

/-- The first access that fails is the write of destination byte `k` (R78, R208). -/
abbrev WriteFailsAt (s : State) (k : Nat) : Prop :=
  ReadsAnswered s.setup.platform (src s) (k + 1) ∧ WritesAnswered s.setup.platform (dst s) k ∧
  inRanges s.setup.platform.busErrWrite (dst s + k) = true

/-- The bus never answers a read of the address: no memory stands there and BUS_ERR does not hold (R256; log 16). -/
abbrev ReadUnanswered (p : Platform) (a : Nat) : Prop := holdsMemory p a = false ∧ inRanges p.busErrRead a = false

/-- The bus never answers a write of the address (R256; log 16). -/
abbrev WriteUnanswered (p : Platform) (a : Nat) : Prop := holdsMemory p a = false ∧ inRanges p.busErrWrite a = false

/-- The first access of a data command that gets no data is one the bus never answers: the read of source byte `k`, or the write of
destination byte `k`. -/
abbrev HangsAt (s : State) (k : Nat) : Prop :=
  (DataAnswered s k ∧ ReadUnanswered s.setup.platform (src s + k)) ∨
  (ReadsAnswered s.setup.platform (src s) (k + 1) ∧ WritesAnswered s.setup.platform (dst s) k ∧
    WriteUnanswered s.setup.platform (dst s + k))

/-- The six rows of ILLEGAL_COMMAND (R83). -/
def isIllegal : Instr → Bool
  | .nop => false
  | .keyLoad => false
  | .blockEnc => false
  | .blockDec => false
  | .chainInitEnc => false
  | .chainInitDec => false
  | .chainCrypt => false
  | .clear => false
  | .illegalOpc08 _ => true
  | .illegalOpc10 _ => true
  | .illegalOpc20 _ => true
  | .illegalOpc40 _ => true
  | .illegalOpc80 _ => true
  | .illegalRsv _ => true

/-- A single-block command and its direction (R152, R153). -/
def blockInstr : Dir → Instr
  | .enc => .blockEnc
  | .dec => .blockDec

/-- A chain construction and its direction (R170, R171). -/
def initInstr : Dir → Instr
  | .enc => .chainInitEnc
  | .dec => .chainInitDec

/-- A data byte and a digit as the rule writes it: (b + d) mod 256 for encryption, (b - d) mod 256 for decryption (R151). -/
def outByte (dir : Dir) (b : Byte) (d : Nat) : Byte :=
  match dir with
  | .enc => BitVec.ofNat 8 ((b.toNat + d) % 256)
  | .dec => BitVec.ofInt 8 (((b.toNat : Int) - d) % 256)

/-- The state in which a command ended with an error, from the one it ran in (R204). -/
def endedWith (e : ErrCode) (a : ErrArg) (info : Word) (s : State) : State :=
  { s with ts := none, held := none, err := e, errArg := a, errInfo := info, busy := false, done := true }

/-- An answer with its next state changed. -/
def mapNext (f : State → State) : Answer → Answer
  | .next s => .next (f s)
  | .fault r => .fault r
  | .refused r => .refused r

/-- The number of data bytes of a command (R61). -/
def dataBytes (i : Instr) (s : State) : Nat :=
  match i with
  | .blockEnc => 16
  | .blockDec => 16
  | .chainCrypt => s.latch.srcLen.toNat
  | .nop => 0
  | .keyLoad => 0
  | .chainInitEnc => 0
  | .chainInitDec => 0
  | .clear => 0
  | .illegalOpc08 _ => 0
  | .illegalOpc10 _ => 0
  | .illegalOpc20 _ => 0
  | .illegalOpc40 _ => 0
  | .illegalOpc80 _ => 0
  | .illegalRsv _ => 0

/-- The Chaotic State a command starts from, with STATUS.NX and the draws so far. -/
def genOf (c : Chaotic) (s : State) : Gen := ⟨c, s.nx, s.draws⟩

/-- `D_k` of a command that starts from the Chaotic State `c`: the digit after `k` cycles (R156, R179). -/
def digitAt (s : State) (c : Chaotic) (k : Nat) : Nat := digit s.setup (cycles s.setup (genOf c s) k)

/-! ### What the host owes a running command -/

/-- An address lies in a buffer. -/
def inBuffer (x a n : Nat) : Bool := decide (a ≤ x ∧ x < a + n)

/-- An event that keeps the rules R250 to R252 for the state it happens in: no command and no mirror read while busy, no other
agent's write to the buffers of the running command, no host read of its destination. -/
def dutiful (s : State) : Event → Bool
  | .regRead _ off => !s.busy || !((regAt off).any isMirror)
  | .regWrite _ off _ => !s.busy || regAt off != some .cmd
  | .hostStore a _ => !s.busy || untouched a
  | .hostClean a => !s.busy || untouched a
  | .busWrite a _ => !s.busy || untouched a
  | .hostLoad a => !s.busy || !inBuffer a.toNat (dst s) (dataBytes (fetch s) s)
  | .hostInvalidate _ => true
  | .reset => true
  | .engine _ => true
where
  untouched (a : Word) : Bool :=
    !inBuffer a.toNat (keyBase s) (if fetch s = .keyLoad then 18 else 0) &&
      !inBuffer a.toNat (src s) (dataBytes (fetch s) s) && !inBuffer a.toNat (dst s) (dataBytes (fetch s) s)

/-! ### The value of a binary64 pattern -/

/-- The pattern is a finite number. -/
abbrev Finite (a : F64) : Prop := fExp a ≠ 2047

/-- The rational number a finite pattern stands for. -/
def fVal (a : F64) : ℚ := (if fSign a then -1 else 1) * (fMant a : ℚ) * (2 : ℚ) ^ fPow a

/-- `r` is the finite pattern nearest to `x`, with an even significand when another one is as near (R9). -/
def NearestEven (r : F64) (x : ℚ) : Prop :=
  ∀ c, Finite c → |fVal r - x| ≤ |fVal c - x| ∧ (|fVal r - x| = |fVal c - x| → fVal c ≠ fVal r → fFrac r % 2 = 0)

/-- The least magnitude that rounds to an infinity: half a unit in the last place above the greatest finite value (R9). -/
def overflowBound : ℚ := (2 ^ 54 - 1) * 2 ^ 970

/-- `r` is `x` rounded once to nearest, ties to even: the nearest finite value below the overflow bound, from it on the infinity of
the sign of `x` (R9). -/
def RoundsTo (r : F64) (x : ℚ) : Prop :=
  (|x| < overflowBound → Finite r ∧ NearestEven r x) ∧ (overflowBound ≤ |x| → r = fInf (decide (x < 0)))

end Sys2Proof.Safety
end

