-- ==== Sys2Proof/Certificates/Slice0/Obligations.lean ====
section
/-! DEFINITION. The statements for the provers. Each docstring says which rule of the spec it formalises. -/

open Sys2Proof Sys2Proof.Machine Sys2Proof.Safety

/-! ### Encoding -/

/-- 30_encoding.md R82 to R84: the decoder gives back every well-formed instruction from its word, every free bit kept. -/
def Obligations.DecodeOfEncode : Prop :=
  ∀ i : Instr, i.wellFormed = true → decode (encode i) = i

/-- 30_encoding.md R83: the decoder is total on all 2^32 words, loses no bit of a word and never leaves the well-formed terms. -/
def Obligations.EncodeOfDecode : Prop :=
  ∀ w : Word, (decode w).wellFormed = true ∧ encode (decode w) = w

/-- R84: `decode(w)`, word by word. -/
def Obligations.DecodeFollowsOpcodeMap : Prop :=
  ∀ w : Word,
    (rsvOf w ≠ 0 → isIllegal (decode w) = true) ∧
    (rsvOf w = 0 →
      (opcOf w = 0x00 → decode w = .nop) ∧ (opcOf w = 0x01 → decode w = .keyLoad) ∧
      (opcOf w = 0x02 → decode w = .blockEnc) ∧ (opcOf w = 0x03 → decode w = .blockDec) ∧
      (opcOf w = 0x04 → decode w = .chainInitEnc) ∧ (opcOf w = 0x05 → decode w = .chainInitDec) ∧
      (opcOf w = 0x06 → decode w = .chainCrypt) ∧ (opcOf w = 0x07 → decode w = .clear) ∧
      (0x08 ≤ (opcOf w).toNat → isIllegal (decode w) = true))

/-- 95_test_vectors.md V-DEC and 30_encoding.md R82: command words written out, read by the decoder. -/
def Obligations.TableWordsDecode : Prop :=
  decodeTableWord 32 0x00000000 = some .nop ∧ decodeTableWord 32 0x00000001 = some .keyLoad ∧
  decodeTableWord 32 0x00000002 = some .blockEnc ∧ decodeTableWord 32 0x00000004 = some .chainInitEnc ∧
  decodeTableWord 32 0x00000006 = some .chainCrypt ∧ decodeTableWord 32 0x00000007 = some .clear ∧
  decodeTableWord 32 0x00000008 = some (.illegalOpc08 0) ∧ decodeTableWord 32 0x000000FF = some (.illegalOpc80 0x7F) ∧
  decodeTableWord 32 0x00000106 = some (.illegalRsv 0x00000106) ∧ decodeTableWord 32 0x80000001 = some (.illegalRsv 0x80000001)

/-! ### The step -/

/-- A step runs the decoded command. With no event left, a busy engine runs `decode(L_CMD)` to its end and an idle one stays; an
event happens first; the engine's turn runs `decode(L_CMD)` for that many steps; a word placed by `withFetchWord` is the one run
next (log 2). The list of events is the model's form of the interleaving that 60_exceptions.md R202 allows (log 3), and each event is
the action it names. -/
def Obligations.StepRunsTheDecodedCommand : Prop :=
  ∀ (s : State) (i : Instr), decode s.lCmd = i → i.wellFormed = true →
    (s.inputs = [] → s.busy = true → step s = exec i s) ∧
    (s.inputs = [] → s.busy = false → step s = .next s) ∧
    (∀ e rest, s.inputs = e :: rest → step s = happen e { s with inputs := rest }) ∧
    (∀ n rest, s.inputs = .engine n :: rest →
      (s.busy = true → step s = execFor n i { s with inputs := rest }) ∧ (s.busy = false → step s = .next { s with inputs := rest })) ∧
    (∀ w off rest, s.inputs = .regRead w off :: rest → step s = regRead w off { s with inputs := rest }) ∧
    (∀ w off v rest, s.inputs = .regWrite w off v :: rest → step s = regWrite w off v { s with inputs := rest }) ∧
    (∀ a v rest, s.inputs = .hostStore a v :: rest → step s = hostStore a v { s with inputs := rest }) ∧
    (∀ a rest, s.inputs = .hostLoad a :: rest → step s = hostLoad a { s with inputs := rest }) ∧
    (∀ a rest, s.inputs = .hostClean a :: rest → step s = .next (hostClean a { s with inputs := rest })) ∧
    (∀ a rest, s.inputs = .hostInvalidate a :: rest → step s = .next (hostInvalidate a { s with inputs := rest })) ∧
    (∀ a v rest, s.inputs = .busWrite a v :: rest → step s = busWrite a v { s with inputs := rest }) ∧
    (∀ rest, s.inputs = .reset :: rest → step s = .next (resetEngine { s with inputs := rest })) ∧
    step (s.withFetchWord 32 (encode i).toNat) = exec i (s.withFetchWord 32 (encode i).toNat)

/-- A turn-by-turn run of a command is its whole run: if a turn leaves the engine busy, the rest of the command from there is the
whole command; if it leaves it idle, the turn was the whole command; if it has no step, neither has the command. The turns are
the model's form of 60_exceptions.md R202 (log 3, log 4). -/
def Obligations.TurnsComposeToWholeCommand : Prop :=
  ∀ (i : Instr) (n : Nat) (s : State), s.busy = true →
    (∀ t, execFor n i s = .next t → t.busy = true → exec i t = exec i s) ∧
    (∀ t, execFor n i s = .next t → t.busy = false → exec i s = .next t) ∧
    (∀ f, execFor n i s = .fault f → exec i s = .fault f)

/-- R256: a command left to run completes, if the bus answers the accesses it makes once its checks pass, with data or with a bus
error, and the bytes it accesses have no side effects. A command that fails a check, or makes no access, completes on every platform.
20_memory.md R69: a command whose checks pass has no step if a byte it accesses has side effects, the engine's own window among them
(logs 15, 17, 24). R256: a command whose first access without data is one that the bus never answers does not complete (log 16). That
a side-effect address in an unused tail of a buffer does not count is the model's choice (log 31). -/
def Obligations.AcceptedCommandCompletes : Prop :=
  ∀ s : State, s.busy = true → s.inputs = [] →
    (PlatformServes (fetch s) s → ∃ t, step s = .next t ∧ t.busy = false ∧ t.done = true) ∧
    ((demand (fetch s) s).check = none →
      ∀ b ∈ (demand (fetch s) s).reads ++ (demand (fetch s) s).writes, ∀ k, k < b.2 → sideEffectAt s.setup.platform (b.1 + k) = true →
        step s = .fault .sideEffectBuffer) ∧
    (∀ k, fetch s = .keyLoad → s.idx = 0 → KeyPasses s → k < 18 → ReadsAnswered s.setup.platform (keyBase s) k →
      ReadUnanswered s.setup.platform (keyBase s + k) → step s = .fault .busNoAnswer) ∧
    (∀ d k, fetch s = blockInstr d → Fresh s → s.mem.wf = true → BlockPasses s → k < 16 → HangsAt s k → step s = .fault .busNoAnswer) ∧
    (∀ n k, fetch s = .chainCrypt → Fresh s → s.mem.wf = true → ChainPasses s n → k < n → HangsAt s k → step s = .fault .busNoAnswer)

/-! ### Invariants -/

/-- 10_state.md R21 to R24, R33, R45: the invariant holds after reset, and so does the tie of the chain state to the key. -/
def Obligations.ResetMeetsInvariants : Prop :=
  MachineInv State.reset ∧ ChainFollowsKey State.reset

/-- 10_state.md R21 to R24, R33, 60_exceptions.md R205: every step keeps the invariant. -/
def Obligations.StepKeepsInv : Prop :=
  ∀ s t : State, MachineInv s → step s = .next t → MachineInv t

/-- 10_state.md R25: with a configuration that fixes CVT_OOR, a live chain state stays the function of KEY and CYCLES that the key
schedule and the update cycle give. -/
def Obligations.StepKeepsChainFollowsKey : Prop :=
  ∀ s t : State, s.setup.cvtOor.isSome = true → ChainFollowsKey s → step s = .next t → ChainFollowsKey t

/-- 00_scope.md R6: no step changes the configuration. -/
def Obligations.StepKeepsConfiguration : Prop :=
  ∀ s t : State, step s = .next t → t.setup = s.setup

/-! ### Results of the commands, with their frames

The frames say of L_CMD, the latched operands, IDX and KB what the model does with them. What they hold between commands is open in
the spec (10_state.md R27, item 20), so those parts of a frame are the model's choice (log 30). -/

/-- R190: NOP completes, and nothing else changes; of L_CMD, the latched operands, IDX and KB that is the model's choice (log 30). -/
def Obligations.NopCompletes : Prop :=
  ∀ s : State, exec .nop s = .next { s with ts := none, held := none, busy := false, done := true }

/-- R191: CLEAR gives the key and the chain state their reset values, and nothing else changes but the completion. That KB, IDX,
L_CMD and the latched operands stay is the model's choice (log 30): the spec lets them hold any value after the command. -/
def Obligations.ClearDestroysKeyAndChain : Prop :=
  ∀ s : State, exec .clear s = .next
    { s with
      key := Vector.replicate 18 0, keyValid := false,
      cs := { pos := ⟨0, 0, 0⟩, mix := ⟨0, 0, 0⟩, tap := ⟨0, 0, 0⟩, alpha := ⟨0, 0, 0⟩ },
      chainValid := false, chainDir := .enc, cycles := 0, ts := none, held := none, busy := false, done := true }

/-- R170, R171: with a key, CHAIN_INIT_ENC and CHAIN_INIT_DEC derive CS from it and nothing else changes but the completion;
without one they end with NO_KEY. -/
def Obligations.ChainInitDerivesFromKey : Prop :=
  ∀ (d : Dir) (s : State),
    (s.keyValid = true → exec (initInstr d) s = .next
      { s with
        cs := keySchedule s.setup s.key, chainDir := d, cycles := 0, chainValid := true, ts := none, held := none, busy := false, done := true }) ∧
    (s.keyValid = false → exec (initInstr d) s = .next (endedWith .noKey .none 0 s))

/-- R83: each of the six ILLEGAL_COMMAND rows ends with ILLEGAL_COMMAND, ERR_ARG 0 and ERR_INFO the whole word; nothing else
changes. Its own effect is this error. -/
def Obligations.IllegalWordEndsWithIllegalCommand : Prop :=
  ∀ (i : Instr) (s : State), isIllegal i = true → exec i s = .next (endedWith .illegalCommand .none s.lCmd s)

/-- R110: KEY_LOAD of 18 readable bytes stores them in order, makes the key valid and ends the chain; memory and everything else
the host can see is unchanged but for the completion. That IDX counts the bytes read is deduced (10_state.md R27, log 25); that it, KB
and the latched copies stay after the command is the model's choice (log 30). -/
def Obligations.KeyLoadStoresTheKey : Prop :=
  ∀ s : State, s.idx = 0 → KeyPasses s → ReadsAnswered s.setup.platform (keyBase s) 18 →
    ∃ key : Vector Byte 18,
      exec .keyLoad s = .next
        { s with key := key, kb := key, keyValid := true, chainValid := false, idx := 18, ts := none, held := none, busy := false, done := true } ∧
      ∀ (k : Nat) (h : k < 18), key[k] = s.mem.read (keyBase s + k)

/-- R156: BLOCK_ENC and BLOCK_DEC combine source byte k with D_k, the same for both and for every source block; every byte outside
the 16 destination bytes, and every other part of the state, is unchanged but for the completion, NX and the draws. The model's
choices: IDX, KB and the latched copies after the command (log 30), the unused tails of the buffers (log 31). -/
def Obligations.BlockCommandsApplyKeystream : Prop :=
  ∀ (d : Dir) (s : State), BlockReady s →
    ∃ m : Memory,
      exec (blockInstr d) s = .next
        { s with
          mem := m, nx := (cycles s.setup (genOf (keySchedule s.setup s.key) s) 16).nx,
          draws := (cycles s.setup (genOf (keySchedule s.setup s.key) s) 16).draws,
          idx := 16, ts := none, held := none, busy := false, done := true } ∧
      (∀ k, k < 16 →
        m.read (dst s + k) = outByte d (s.mem.read (src s + k)) (digitAt s (keySchedule s.setup s.key) k)) ∧
      (∀ a, inBuffer a (dst s) 16 = false → m.read a = s.mem.read a) ∧
      (d = .enc → (∀ k, k < 16 → s.mem.read (src s + k) = 0) →
        ∀ k, k < 16 → (m.read (dst s + k)).toNat = digitAt s (keySchedule s.setup s.key) k % 256)

/-- R175, R179: CHAIN_CRYPT of n bytes combines source byte k with the digit of CS after k cycles, advances CS by n cycles and
CYCLES by n; every byte outside the n destination bytes and every other part of the state is unchanged but for the completion,
NX and the draws. The model's choices: IDX, KB and the latched copies after the command (log 30), the unused tail of the destination
(log 31). -/
def Obligations.ChainCryptAppliesKeystream : Prop :=
  ∀ (s : State) (n : Nat), ChainReady s n →
    ∃ m : Memory,
      exec .chainCrypt s = .next
        { s with
          mem := m, cs := (cycles s.setup (genOf s.cs s) n).chaos, cycles := s.cycles + BitVec.ofNat 64 n,
          nx := (cycles s.setup (genOf s.cs s) n).nx, draws := (cycles s.setup (genOf s.cs s) n).draws,
          idx := s.latch.srcLen, ts := none, held := none, busy := false, done := true } ∧
      (∀ k, k < n → m.read (dst s + k) = outByte s.chainDir (s.mem.read (src s + k)) (digitAt s s.cs k)) ∧
      (∀ a, inBuffer a (dst s) n = false → m.read a = s.mem.read a)

/-- R176: CHAIN_CRYPT of no bytes succeeds whatever the addresses and the destination length, and changes nothing but the
completion. That a buffer of no bytes meets no side-effect address is deduced (log 15); that KB, IDX and the latched copies stay after
the command is the model's choice (log 30). -/
def Obligations.EmptyMessageSucceeds : Prop :=
  ∀ s : State, s.chainValid = true → s.latch.srcLen = 0 →
    exec .chainCrypt s = .next { s with ts := none, held := none, busy := false, done := true }

/-! ### Errors -/

/-- 60_exceptions.md R205, R206, KEY_LOAD: the length is checked first, then the range. -/
def Obligations.KeyLoadChecksInOrder : Prop :=
  ∀ s : State,
    (s.latch.keyLen ≠ 18 → exec .keyLoad s = .next (endedWith .invalidKeySize .key s.latch.keyLen s)) ∧
    (s.latch.keyLen = 18 → 2 ^ 32 < keyBase s + 18 →
      exec .keyLoad s = .next (endedWith .addressRange .key s.latch.keyAddr s))

/-- 60_exceptions.md R205, R206, BLOCK_ENC and BLOCK_DEC: the six checks, each when the earlier ones pass. -/
def Obligations.BlockChecksInOrder : Prop :=
  ∀ (d : Dir) (s : State),
    (s.keyValid = false → exec (blockInstr d) s = .next (endedWith .noKey .none 0 s)) ∧
    (s.keyValid = true → s.latch.srcLen.toNat < 16 →
      exec (blockInstr d) s = .next (endedWith .bufferTooShort .source s.latch.srcLen s)) ∧
    (s.keyValid = true → 16 ≤ s.latch.srcLen.toNat → s.latch.dstLen.toNat < 16 →
      exec (blockInstr d) s = .next (endedWith .bufferTooShort .destination s.latch.dstLen s)) ∧
    (s.keyValid = true → 16 ≤ s.latch.srcLen.toNat → 16 ≤ s.latch.dstLen.toNat → 2 ^ 32 < src s + 16 →
      exec (blockInstr d) s = .next (endedWith .addressRange .source s.latch.srcAddr s)) ∧
    (s.keyValid = true → 16 ≤ s.latch.srcLen.toNat → 16 ≤ s.latch.dstLen.toNat → src s + 16 ≤ 2 ^ 32 → 2 ^ 32 < dst s + 16 →
      exec (blockInstr d) s = .next (endedWith .addressRange .destination s.latch.dstAddr s)) ∧
    (s.keyValid = true → 16 ≤ s.latch.srcLen.toNat → 16 ≤ s.latch.dstLen.toNat → src s + 16 ≤ 2 ^ 32 → dst s + 16 ≤ 2 ^ 32 →
      src s ≠ dst s → src s < dst s + 16 → dst s < src s + 16 →
      exec (blockInstr d) s = .next (endedWith .bufferOverlap .destination s.latch.dstAddr s))

/-- 60_exceptions.md R205, R206, CHAIN_CRYPT: the six checks, each when the earlier ones pass. -/
def Obligations.ChainCryptChecksInOrder : Prop :=
  ∀ (s : State) (n : Nat), s.latch.srcLen.toNat = n →
    (s.chainValid = false → exec .chainCrypt s = .next (endedWith .noChain .none 0 s)) ∧
    (s.chainValid = true → n % 16 ≠ 0 →
      exec .chainCrypt s = .next (endedWith .unalignedInput .source s.latch.srcLen s)) ∧
    (s.chainValid = true → n % 16 = 0 → s.latch.dstLen.toNat < n →
      exec .chainCrypt s = .next (endedWith .bufferTooShort .destination s.latch.dstLen s)) ∧
    (s.chainValid = true → n % 16 = 0 → n ≤ s.latch.dstLen.toNat → 0 < n → 2 ^ 32 < src s + n →
      exec .chainCrypt s = .next (endedWith .addressRange .source s.latch.srcAddr s)) ∧
    (s.chainValid = true → n % 16 = 0 → n ≤ s.latch.dstLen.toNat → 0 < n → src s + n ≤ 2 ^ 32 → 2 ^ 32 < dst s + n →
      exec .chainCrypt s = .next (endedWith .addressRange .destination s.latch.dstAddr s)) ∧
    (s.chainValid = true → n % 16 = 0 → n ≤ s.latch.dstLen.toNat → 0 < n → src s + n ≤ 2 ^ 32 → dst s + n ≤ 2 ^ 32 →
      src s ≠ dst s → src s < dst s + n → dst s < src s + n →
      exec .chainCrypt s = .next (endedWith .bufferOverlap .destination s.latch.dstAddr s))

/-- R207: a command that ends with an error other than BUS_ERROR changes only DONE, ERR, ERR_ARG, ERR_INFO and BUSY, and makes no
memory access: it ends so whatever memory holds and whatever the platform answers. -/
def Obligations.ValidationErrorsHaveNoEffect : Prop :=
  ∀ (i : Instr) (s t : State), s.err = .none → s.ts = none → s.held = none → exec i s = .next t → t.err ≠ .none → t.err ≠ .busError →
    t = { s with busy := false, done := true, err := t.err, errArg := t.errArg, errInfo := t.errInfo } ∧
    ∀ (m : Memory) (p : Platform),
      exec i { s with mem := m, setup := { s.setup with platform := p } } =
        .next { t with mem := m, setup := { s.setup with platform := p } }

/-- R111, R110: a KEY_LOAD that ends with any error leaves KEY and KEY_VALID as they were, and the chain too. -/
def Obligations.FailedKeyLoadKeepsKey : Prop :=
  ∀ s t : State, s.err = .none → exec .keyLoad s = .next t → t.err ≠ .none →
    t.key = s.key ∧ t.keyValid = s.keyValid ∧ t.chainValid = s.chainValid ∧ t.cs = s.cs ∧ t.chainDir = s.chainDir ∧
    t.cycles = s.cycles ∧ t.mem = s.mem

/-- 60_exceptions.md R208, KEY_LOAD: the first key byte whose read fails ends the command with BUS_ERROR and its address.
That IDX is then k, the bytes read, is deduced (10_state.md R27, log 25); that it and the latched copies stay after the command is the
model's choice (log 30). -/
def Obligations.KeyLoadBusErrorNamesTheByte : Prop :=
  ∀ (s : State) (k : Nat), s.idx = 0 → KeyPasses s → k < 18 → ReadsAnswered s.setup.platform (keyBase s) k →
    inRanges s.setup.platform.busErrRead (keyBase s + k) = true →
    ∃ t, exec .keyLoad s = .next t ∧
      t = endedWith .busError .key (BitVec.ofNat 32 (keyBase s + k)) { s with kb := t.kb, idx := BitVec.ofNat 32 k }

/-- 60_exceptions.md R208, BLOCK_ENC and BLOCK_DEC: a bus error at byte k leaves bytes 0 to k-1 of the destination with their
results and every other byte as it was, and CS untouched. IDX is k by 10_state.md R48; that it, KB and the latched copies stay after
the command is the model's choice (log 30), and so is that a side-effect address in an unused tail of a buffer does not count
(log 31). -/
def Obligations.BlockBusErrorKeepsEarlierBytes : Prop :=
  ∀ (d : Dir) (s : State) (k : Nat), Fresh s → s.mem.wf = true → BlockPasses s → k < 16 →
    (ReadFailsAt s k → ∃ t, exec (blockInstr d) s = .next t ∧
      t = endedWith .busError .source (BitVec.ofNat 32 (src s + k))
        { s with mem := t.mem, nx := t.nx, draws := t.draws, idx := BitVec.ofNat 32 k } ∧
      (∀ j, j < k → t.mem.read (dst s + j) = outByte d (s.mem.read (src s + j)) (digitAt s (keySchedule s.setup s.key) j)) ∧
      (∀ a, inBuffer a (dst s) k = false → t.mem.read a = s.mem.read a)) ∧
    (WriteFailsAt s k → ∃ t, exec (blockInstr d) s = .next t ∧
      t = endedWith .busError .destination (BitVec.ofNat 32 (dst s + k))
        { s with mem := t.mem, nx := t.nx, draws := t.draws, idx := BitVec.ofNat 32 k } ∧
      (∀ j, j < k → t.mem.read (dst s + j) = outByte d (s.mem.read (src s + j)) (digitAt s (keySchedule s.setup s.key) j)) ∧
      (∀ a, inBuffer a (dst s) k = false → t.mem.read a = s.mem.read a))

/-- 60_exceptions.md R208, CHAIN_CRYPT: a bus error at byte k leaves bytes 0 to k-1 of the destination with their results and ends
the chain; CS and CYCLES are left without a claim, since the rule leaves them open. IDX is k by 10_state.md R48; that it, KB and the
latched copies stay after the command is the model's choice (log 30), and so is that a side-effect address in the unused tail of the
destination does not count (log 31). -/
def Obligations.ChainBusErrorEndsTheChain : Prop :=
  ∀ (s : State) (n k : Nat), Fresh s → s.mem.wf = true → ChainPasses s n → k < n →
    (ReadFailsAt s k → ∃ t, exec .chainCrypt s = .next t ∧
      t = endedWith .busError .source (BitVec.ofNat 32 (src s + k))
        { s with
          mem := t.mem, nx := t.nx, draws := t.draws, idx := BitVec.ofNat 32 k, chainValid := false, cs := t.cs, cycles := t.cycles } ∧
      (∀ j, j < k → t.mem.read (dst s + j) = outByte s.chainDir (s.mem.read (src s + j)) (digitAt s s.cs j)) ∧
      (∀ a, inBuffer a (dst s) k = false → t.mem.read a = s.mem.read a)) ∧
    (WriteFailsAt s k → ∃ t, exec .chainCrypt s = .next t ∧
      t = endedWith .busError .destination (BitVec.ofNat 32 (dst s + k))
        { s with
          mem := t.mem, nx := t.nx, draws := t.draws, idx := BitVec.ofNat 32 k, chainValid := false, cs := t.cs, cycles := t.cycles } ∧
      (∀ j, j < k → t.mem.read (dst s + j) = outByte s.chainDir (s.mem.read (src s + j)) (digitAt s s.cs j)) ∧
      (∀ a, inBuffer a (dst s) k = false → t.mem.read a = s.mem.read a))

/-! ### Laws of the cipher

BlockReady and ChainReady premise the bytes a command accesses, not the unused tails of its buffers: that the command then runs is the
model's choice (log 31). -/

/-- 42_block_cipher.md R154: decryption under the same key, with NX = 0, gives the plaintext back. -/
def Obligations.BlockDecryptionInvertsEncryption : Prop :=
  ∀ s t u v : State, BlockReady s → exec .blockEnc s = .next t → t.nx = false →
    BlockReady u → u.setup = s.setup → u.key = s.key →
    (∀ k, k < 16 → u.mem.read (src u + k) = t.mem.read (dst s + k)) →
    exec .blockDec u = .next v → v.nx = false →
    ∀ k, k < 16 → v.mem.read (dst u + k) = s.mem.read (src s + k)

/-- 42_block_cipher.md R155: with NX = 0, what a single-block command writes is a function of the key and the 16 source bytes. -/
def Obligations.BlockCommandIsStateless : Prop :=
  ∀ (d : Dir) (s t u v : State), BlockReady s → BlockReady u → u.setup = s.setup → u.key = s.key →
    (∀ k, k < 16 → u.mem.read (src u + k) = s.mem.read (src s + k)) →
    exec (blockInstr d) s = .next t → t.nx = false → exec (blockInstr d) u = .next v → v.nx = false →
    ∀ k, k < 16 → v.mem.read (dst u + k) = t.mem.read (dst s + k)

/-- 42_block_cipher.md R157: BLOCK_ENC of a block writes what CHAIN_CRYPT writes for it as the first block after CHAIN_INIT_ENC. A
side-effect address in an unused tail of a buffer does not count: the model's choice (log 31). With NX = 1 the two agree because they
draw the same values of CVT_OOR (log 10). -/
def Obligations.BlockEqualsFirstChainedBlock : Prop :=
  ∀ s : State, BlockReady s →
    ∃ t c v, exec .blockEnc s = .next t ∧ exec .chainInitEnc s = .next c ∧
      exec .chainCrypt (accept (encode .chainCrypt) { c with ops := { s.latch with srcLen := 16 } }) = .next v ∧
      ∀ a, v.mem.read a = t.mem.read a

/-- 20_memory.md R65: an in-place command gives the bytes that the same command gives with separate buffers. That both complete where an
unused tail meets a side-effect address is the model's choice (log 31). With NX = 1 the two agree because they draw the same values of
CVT_OOR (log 10); 60_exceptions.md R209 claims nothing of such output. -/
def Obligations.InPlaceGivesTheSameBytes : Prop :=
  (∀ (d : Dir) (s : State), BlockReady s → BlockReady { s with latch := { s.latch with dstAddr := s.latch.srcAddr } } →
    ∃ t v, exec (blockInstr d) s = .next t ∧
      exec (blockInstr d) { s with latch := { s.latch with dstAddr := s.latch.srcAddr } } = .next v ∧
      ∀ k, k < 16 → v.mem.read (src s + k) = t.mem.read (dst s + k)) ∧
  (∀ (n : Nat) (s : State), ChainReady s n → ChainReady { s with latch := { s.latch with dstAddr := s.latch.srcAddr } } n →
    ∃ t v, exec .chainCrypt s = .next t ∧
      exec .chainCrypt { s with latch := { s.latch with dstAddr := s.latch.srcAddr } } = .next v ∧
      ∀ k, k < n → v.mem.read (src s + k) = t.mem.read (dst s + k))

/-- 43_chaining_mode.md R178: a message in two commands over consecutive bytes is the message in one. That the commands complete where
the unused tail of the destination meets a side-effect address is the model's choice (log 31). With NX = 1 the two runs agree because
they draw the same values of CVT_OOR (log 10); 60_exceptions.md R209 claims nothing of such output. -/
def Obligations.SplitMessageIsTheWholeMessage : Prop :=
  ∀ (s : State) (n1 n2 : Nat), ChainReady s (n1 + n2) → n1 % 16 = 0 → n2 % 16 = 0 →
    ∃ t t1 t2,
      exec .chainCrypt s = .next t ∧
      exec .chainCrypt { s with latch := { s.latch with srcLen := BitVec.ofNat 32 n1 } } = .next t1 ∧
      exec .chainCrypt
        (accept (encode .chainCrypt)
          { t1 with
            ops :=
              { s.latch with
                srcAddr := s.latch.srcAddr + BitVec.ofNat 32 n1, srcLen := BitVec.ofNat 32 n2,
                dstAddr := s.latch.dstAddr + BitVec.ofNat 32 n1, dstLen := BitVec.ofNat 32 n2 } }) = .next t2 ∧
      (∀ a, t2.mem.read a = t.mem.read a) ∧ t2.cs = t.cs ∧ t2.cycles = t.cycles ∧ t2.nx = t.nx ∧ t2.draws = t.draws

/-- 43_chaining_mode.md R180: a decrypting chain from the same Chaotic State, with NX = 0, gives the message back. -/
def Obligations.ChainDecryptionInvertsEncryption : Prop :=
  ∀ (n : Nat) (s t u v : State), ChainReady s n → s.chainDir = .enc → exec .chainCrypt s = .next t → t.nx = false →
    ChainReady u n → u.chainDir = .dec → u.setup = s.setup → u.cs = s.cs →
    (∀ k, k < n → u.mem.read (src u + k) = t.mem.read (dst s + k)) →
    exec .chainCrypt u = .next v → v.nx = false →
    (∀ k, k < n → v.mem.read (dst u + k) = s.mem.read (src s + k)) ∧ v.cs = t.cs

/-- R131: the positions after n cycles are n Euler steps of the first positions, whatever the indices; the Euler map is that of
R128, every operation rounded on its own in the order written. -/
def Obligations.TrajectoryIgnoresIndices : Prop :=
  ∀ (c : Setup) (n : Nat),
    (∀ x y z : F64,
      let f0 := fAdd (fMul c.numerics.cX0 x) (fMul c.numerics.cY0 y)
      let f1 := fSub (fSub (fMul c.numerics.cX1 x) (fMul c.numerics.cY1 y)) (fMul x z)
      let f2 := fAdd (fMul x y) (fMul c.numerics.cZ2 z)
      eulerStep c.numerics ⟨x, y, z⟩ =
        ⟨fAdd x (fMul f0 c.numerics.dt), fAdd y (fMul f1 c.numerics.dt), fAdd z (fMul f2 c.numerics.dt)⟩) ∧
    (∀ g : Gen, (cycles c g n).chaos.pos = (eulerStep c.numerics)^[n] g.chaos.pos) ∧
    (∀ g g' : Gen, g.chaos.pos = g'.chaos.pos → (cycles c g n).chaos.pos = (cycles c g' n).chaos.pos)

/-- 10_state.md R21: the key schedule and every update cycle leave alpha equal to the selected positions. -/
def Obligations.AlphaIsTheSelectedPosition : Prop :=
  ∀ (c : Setup) (key : Vector Byte 18) (g : Gen) (i : Fin 3),
    (keySchedule c key).alpha.get i = (keySchedule c key).pos.get ((keySchedule c key).mix.get i) ∧
    (updateCycle c g).chaos.alpha.get i = (updateCycle c g).chaos.pos.get ((updateCycle c g).chaos.mix.get i)

/-- 41_keystream_cascade.md R123, R125, R126, R127, R130: each channel makes one extraction, from its own alpha and tap, in the order
of the channels; the digit is the sum of the three; the index updates add the channel's extraction; a cycle keeps the NX and the
draws of the three. -/
def Obligations.IndexUpdatesAddTheExtraction : Prop :=
  ∀ (c : Setup) (g : Gen),
    let r0 := extract c g.chaos.alpha.ch0 g.chaos.tap.ch0 g.nx g.draws
    let r1 := extract c g.chaos.alpha.ch1 g.chaos.tap.ch1 r0.2.1 r0.2.2
    let r2 := extract c g.chaos.alpha.ch2 g.chaos.tap.ch2 r1.2.1 r1.2.2
    let e : Three Byte := ⟨r0.1, r1.1, r2.1⟩
    extractAll c g = (e, r2.2.1, r2.2.2) ∧
    digit c g = r0.1.toNat + r1.1.toNat + r2.1.toNat ∧ digit c g ≤ 765 ∧
    (updateCycle c g).nx = r2.2.1 ∧ (updateCycle c g).draws = r2.2.2 ∧
    ∀ i : Fin 3,
      ((updateCycle c g).chaos.mix.get i).val = ((g.chaos.mix.get i).val + (e.get i).toNat) % 3 ∧
      ((updateCycle c g).chaos.tap.get i).val = ((g.chaos.tap.get i).val + (e.get i).toNat) % 4

/-- 40_key_schedule.md R101, R102, R104: the key segments are little-endian 48-bit integers; the mix indices come from them modulo
3; the tap index of channel i is, modulo 4, digest byte 3 (BE) or 0 (LE) of TAP_HASH on the 24-byte message that lists, as 64-bit
little-endian integers, (i+1) times each segment. -/
def Obligations.KeySegmentsGiveMixAndTapIndices : Prop :=
  ∀ (c : Setup) (key : Vector Byte 18),
    (∀ j : Fin 3, segment key j < 2 ^ 48) ∧
    segment key 0 =
      key[0].toNat + key[1].toNat * 256 + key[2].toNat * 256 ^ 2 + key[3].toNat * 256 ^ 3 + key[4].toNat * 256 ^ 4 + key[5].toNat * 256 ^ 5 ∧
    segment key 1 =
      key[6].toNat + key[7].toNat * 256 + key[8].toNat * 256 ^ 2 + key[9].toNat * 256 ^ 3 + key[10].toNat * 256 ^ 4 + key[11].toNat * 256 ^ 5 ∧
    segment key 2 =
      key[12].toNat + key[13].toNat * 256 + key[14].toNat * 256 ^ 2 + key[15].toNat * 256 ^ 3 + key[16].toNat * 256 ^ 4 + key[17].toNat * 256 ^ 5 ∧
    ((keySchedule c key).mix.ch0 : Nat) = (segment key 0 + segment key 1 + segment key 2) % 3 ∧
    ((keySchedule c key).mix.ch1 : Nat) = (segment key 0 * segment key 1 + segment key 2) % 3 ∧
    ((keySchedule c key).mix.ch2 : Nat) = (segment key 0 + segment key 1 * segment key 2) % 3 ∧
    ∀ i : Fin 3, ∃ msg : List Byte,
      msg.length = 24 ∧
      (∀ (j : Fin 3) (k : Nat), k < 8 →
        msg[8 * j.val + k]? = some (BitVec.ofNat 8 ((i.val + 1) * segment key j / 256 ^ k % 256))) ∧
      (tapWordOrder c = .be → ((keySchedule c key).tap.get i).val = (tapHash c msg).h3.toNat % 4) ∧
      (tapWordOrder c = .le → ((keySchedule c key).tap.get i).val = (tapHash c msg).h0.toNat % 4)

/-! ### Binary64 -/

/-- 00_scope.md R9: each operation on finite values rounds its exact result once: to the nearest binary64 value, ties to even, or,
from the overflow bound on, to the infinity of the exact result's sign. Signs of zeros are IEEE 754's (log 22): an exact sum of zero is
+0 but for two negative zeros, and products and quotients have the sign of their operands' signs. -/
def Obligations.OperationsRoundToNearestEven : Prop :=
  ∀ a b : F64, Finite a → Finite b →
    RoundsTo (fAdd a b) (fVal a + fVal b) ∧
    RoundsTo (fSub a b) (fVal a - fVal b) ∧
    RoundsTo (fMul a b) (fVal a * fVal b) ∧
    (fVal b ≠ 0 → RoundsTo (fDiv a b) (fVal a / fVal b) ∧ fSign (fDiv a b) = (fSign a != fSign b)) ∧
    (fVal a + fVal b = 0 → fAdd a b = fZero (fSign a && fSign b)) ∧
    (fVal a - fVal b = 0 → fSub a b = fZero (fSign a && !fSign b)) ∧
    fSign (fMul a b) = (fSign a != fSign b)

/-- 00_scope.md R9, 41_keystream_cascade.md R132: a NaN operand gives a NaN, and so does every invalid operation (infinities of
opposite effect in a sum or a difference, zero times infinity in either order, zero over zero, infinity over infinity); every other
operation with an infinite operand, and a nonzero value over zero, gives the infinity or the zero that IEEE 754 gives (log 22). Nothing
stops. -/
def Obligations.NansAndInfinitiesAreCarriedThrough : Prop :=
  (∀ a b : F64, fIsNan a = true ∨ fIsNan b = true →
    fIsNan (fAdd a b) = true ∧ fIsNan (fSub a b) = true ∧ fIsNan (fMul a b) = true ∧ fIsNan (fDiv a b) = true) ∧
  (∀ x y : Bool, fIsNan (fAdd (fInf x) (fInf !x)) = true ∧ fIsNan (fSub (fInf x) (fInf x)) = true ∧
    fIsNan (fMul (fZero x) (fInf y)) = true ∧ fIsNan (fMul (fInf x) (fZero y)) = true ∧
    fIsNan (fDiv (fZero x) (fZero y)) = true ∧ fIsNan (fDiv (fInf x) (fInf y)) = true) ∧
  (∀ x y : Bool, fAdd (fInf x) (fInf x) = fInf x ∧ fSub (fInf x) (fInf !x) = fInf x ∧ fMul (fInf x) (fInf y) = fInf (x != y)) ∧
  (∀ (x : Bool) (b : F64), Finite b →
    fAdd (fInf x) b = fInf x ∧ fAdd b (fInf x) = fInf x ∧ fSub (fInf x) b = fInf x ∧ fSub b (fInf x) = fInf (!x) ∧
    fDiv (fInf x) b = fInf (x != fSign b) ∧ fDiv b (fInf x) = fZero (fSign b != x) ∧
    (fVal b ≠ 0 →
      fMul (fInf x) b = fInf (x != fSign b) ∧ fMul b (fInf x) = fInf (fSign b != x) ∧ fDiv b (fZero x) = fInf (fSign b != x)))

/-- 00_scope.md R10: trunc64 is the value rounded toward zero where that is in the signed 64-bit range, and nothing elsewhere. -/
def Obligations.TruncGoesTowardZero : Prop :=
  ∀ a : F64,
    (Finite a → -(2 ^ 63 : ℚ) ≤ fVal a → fVal a < 2 ^ 63 →
      ∃ u, trunc64 a = some u ∧ u.toInt = if 0 ≤ fVal a then ⌊fVal a⌋ else ⌈fVal a⌉) ∧
    ((¬Finite a ∨ fVal a < -(2 ^ 63 : ℚ) ∨ (2 ^ 63 : ℚ) ≤ fVal a) → trunc64 a = none)

/-- 00_scope.md R10, 41_keystream_cascade.md R121: an extraction takes byte t of the converted product; out of range it takes byte t
of CVT_OOR and sets NX. -/
def Obligations.ExtractionTakesOneByte : Prop :=
  ∀ (c : Setup) (alpha : F64) (t : Fin 4) (nx : Bool) (d : Nat),
    (∀ u, trunc64 (fMul alpha c.numerics.extScale) = some u →
      (extract c alpha t nx d).1.toNat = u.toNat / 256 ^ t.val % 256 ∧ (extract c alpha t nx d).2.1 = nx ∧
      (extract c alpha t nx d).2.2 = d) ∧
    (trunc64 (fMul alpha c.numerics.extScale) = none →
      (extract c alpha t nx d).1.toNat = (cvtOor c d).toNat / 256 ^ t.val % 256 ∧ (extract c alpha t nx d).2.1 = true)

/-- R7: each default coefficient is the rounding of its exact expression; rounding β first gives the other pattern for C_Z2. -/
def Obligations.DefaultCoefficientsAreRounded : Prop :=
  let n : Numerics := {}
  n.cX0 = fOfRat (1 - n.sigma) ∧ n.cY0 = fOfRat n.sigma ∧ n.cX1 = fOfRat n.rho ∧ n.cY1 = fOfRat 2 ∧
  n.cZ2 = fOfRat (1 - n.beta) ∧ n.dt = fOfRat (1 / 100) ∧
  fSub (fOfNat 1) (fOfRat n.beta) = 0xBFFAAAAAAAAAAAAA#64

/-- 41_keystream_cascade.md R133: the worked cycle, in a configuration with the default numbers. -/
def Obligations.WorkedCycle : Prop :=
  let g : Gen :=
    { chaos :=
        { pos := ⟨0x3FF0000000000000#64, 0x4008000000000000#64, 0x403E000000000000#64⟩, mix := ⟨0, 2, 1⟩, tap := ⟨0, 0, 0⟩,
          alpha := ⟨0x3FF0000000000000#64, 0x403E000000000000#64, 0x4008000000000000#64⟩ },
      nx := false, draws := 0 }
  digit resetSetup g = 0 ∧
  updateCycle resetSetup g =
    { chaos :=
        { pos := ⟨0x3FF35C28F5C28F5C#64, 0x40075C28F5C28F5C#64, 0x403D87AE147AE148#64⟩, mix := ⟨0, 2, 1⟩, tap := ⟨0, 0, 0⟩,
          alpha := ⟨0x3FF35C28F5C28F5C#64, 0x403D87AE147AE148#64, 0x40075C28F5C28F5C#64⟩ },
      nx := false, draws := 0 }

/-- 40_key_schedule.md R103, R107: the key schedule's position j is segment j over SEED_DIV plus SEED_OFF[j], the division rounded
first; with the default numbers the positions of every key lie just above 1, 3 and 30, and a segment of zero gives exactly the
offset. -/
def Obligations.SeedPositionsLieInTheirRanges : Prop :=
  ∀ (c : Setup) (key : Vector Byte 18),
    let p := (keySchedule c key).pos
    (∀ j : Fin 3, p.get j = fAdd (fDiv (fOfNat (segment key j)) c.numerics.seedDiv) (c.numerics.seedOff.get j)) ∧
    (c.numerics = {} →
      (Finite p.ch0 ∧ 1 ≤ fVal p.ch0 ∧ fVal p.ch0 < 1.0282) ∧
      (Finite p.ch1 ∧ 3 ≤ fVal p.ch1 ∧ fVal p.ch1 < 3.0282) ∧
      (Finite p.ch2 ∧ 30 ≤ fVal p.ch2 ∧ fVal p.ch2 < 30.0282) ∧
      ∀ j : Fin 3, segment key j = 0 → p.get j = c.numerics.seedOff.get j)

/-! ### Registers, acceptance, interrupt, reset -/

/-- R200: a write of w to CMD while idle is accepted: the operands are latched, the report and DONE cleared, and the engine runs
`decode(w)` next; nothing else changes. -/
def Obligations.IdleCommandWriteIsAccepted : Prop :=
  ∀ (s : State) (w : Word) (rest : List Event), s.busy = false → s.inputs = .regWrite .w32 0x08 w :: rest →
    ∃ t, step s = .next t ∧ fetch t = decode w ∧
      t = { s with
            inputs := rest, lCmd := w, latch := s.ops, idx := 0, ts := none, held := none, err := .none, errArg := .none, errInfo := 0,
            done := false, busy := true }

/-- R201: a write to CMD while busy is dropped and sets OVR; nothing else changes. -/
def Obligations.BusyCommandWriteIsDropped : Prop :=
  ∀ (s : State) (w : Word) (rest : List Event), s.busy = true → s.inputs = .regWrite .w32 0x08 w :: rest →
    step s = .next { s with inputs := rest, ovr := true }

/-- 10_state.md R44: a running command does not see the operand registers or CTRL. Where it draws values of CVT_OOR, both runs draw the
same ones (log 10). -/
def Obligations.RunningCommandIgnoresOperandRegisters : Prop :=
  ∀ (i : Instr) (s : State) (o : Operands) (ie : Bool),
    exec i { s with ops := o, ie := ie } = mapNext (fun t => { t with ops := o, ie := ie }) (exec i s)

/-- 10_state.md R29 to R32, R34 to R37, R42, R44: what each register other than STATUS and the mirrors reads, and what a write
changes; reserved offsets read 0, and read-only registers and reserved offsets ignore writes. A write to CMD is accepted when idle and
dropped, with OVR set, when busy (60_exceptions.md R200, R201). -/
def Obligations.WindowRegistersReadAndWrite : Prop :=
  ∀ (s : State) (v : Word),
    (∀ off : BitVec 8, off = 0x2C ∨ off = 0x38 ∨ off = 0x3C ∨ 0x74 ≤ off.toNat → readOffset s off = (0, s.draws)) ∧
    (∀ off : BitVec 8, 0x2C ≤ off.toNat → writeOffset off v s = s) ∧
    (readOffset s 0x00 = (0x4C524E43#32, s.draws) ∧ writeOffset 0x00 v s = s) ∧
    (readOffset s 0x04 = (if s.ie then 1 else 0, s.draws) ∧ writeOffset 0x04 v s = { s with ie := v.getLsbD 0 }) ∧
    (readOffset s 0x08 = (0, s.draws) ∧
      (s.busy = true → writeOffset 0x08 v s = { s with ovr := true }) ∧
      (s.busy = false → writeOffset 0x08 v s =
        { s with
          lCmd := v, latch := s.ops, idx := 0, ts := none, held := none, err := .none, errArg := .none, errInfo := 0, done := false,
          busy := true })) ∧
    (readOffset s 0x10 = (s.errInfo, s.draws) ∧ writeOffset 0x10 v s = s) ∧
    (readOffset s 0x14 = (s.ops.keyAddr, s.draws) ∧ writeOffset 0x14 v s = { s with ops := { s.ops with keyAddr := v } }) ∧
    (readOffset s 0x18 = (s.ops.keyLen, s.draws) ∧ writeOffset 0x18 v s = { s with ops := { s.ops with keyLen := v } }) ∧
    (readOffset s 0x1C = (s.ops.srcAddr, s.draws) ∧ writeOffset 0x1C v s = { s with ops := { s.ops with srcAddr := v } }) ∧
    (readOffset s 0x20 = (s.ops.srcLen, s.draws) ∧ writeOffset 0x20 v s = { s with ops := { s.ops with srcLen := v } }) ∧
    (readOffset s 0x24 = (s.ops.dstAddr, s.draws) ∧ writeOffset 0x24 v s = { s with ops := { s.ops with dstAddr := v } }) ∧
    (readOffset s 0x28 = (s.ops.dstLen, s.draws) ∧ writeOffset 0x28 v s = { s with ops := { s.ops with dstLen := v } })

/-- 10_state.md R33, 60_exceptions.md R205: the fields of STATUS as read, with the codes of the errors and of the operand selectors,
and its reserved bits. -/
def Obligations.StatusShowsItsFields : Prop :=
  ∀ s : State, ∃ w, readOffset s 0x0C = (w, s.draws) ∧
    w.getLsbD 0 = s.busy ∧ w.getLsbD 1 = s.done ∧ w.getLsbD 2 = s.keyValid ∧ w.getLsbD 3 = s.chainValid ∧
    w.getLsbD 4 = decide (s.chainDir = .dec) ∧ w.getLsbD 5 = s.nx ∧ w.getLsbD 6 = s.ovr ∧ w.getLsbD 7 = false ∧
    (s.err = .none → w.extractLsb' 8 4 = 0#4) ∧ (s.err = .invalidKeySize → w.extractLsb' 8 4 = 1#4) ∧
    (s.err = .bufferTooShort → w.extractLsb' 8 4 = 2#4) ∧ (s.err = .unalignedInput → w.extractLsb' 8 4 = 3#4) ∧
    (s.err = .bufferOverlap → w.extractLsb' 8 4 = 4#4) ∧ (s.err = .illegalCommand → w.extractLsb' 8 4 = 5#4) ∧
    (s.err = .noKey → w.extractLsb' 8 4 = 6#4) ∧ (s.err = .noChain → w.extractLsb' 8 4 = 7#4) ∧
    (s.err = .busError → w.extractLsb' 8 4 = 8#4) ∧ (s.err = .addressRange → w.extractLsb' 8 4 = 9#4) ∧
    (s.errArg = .none → w.extractLsb' 12 2 = 0#2) ∧ (s.errArg = .key → w.extractLsb' 12 2 = 1#2) ∧
    (s.errArg = .source → w.extractLsb' 12 2 = 2#2) ∧ (s.errArg = .destination → w.extractLsb' 12 2 = 3#2) ∧
    w.extractLsb' 14 18 = 0

/-- 10_state.md R33: a write to STATUS changes only DONE, NX and OVR, each by the W1C rule. -/
def Obligations.StatusWriteClearsOnlyItsFlags : Prop :=
  ∀ (s : State) (v : Word),
    writeOffset 0x0C v s =
      { s with done := s.done && !v.getLsbD 1, nx := s.nx && !v.getLsbD 5, ovr := s.ovr && !v.getLsbD 6 }

/-- 10_state.md R38 to R41: while idle the mirror registers show CS and CYCLES exactly. -/
def Obligations.IdleMirrorsShowChainState : Prop :=
  ∀ s : State, s.busy = false →
    (readOffset s 0x34).1 ++ (readOffset s 0x30).1 = s.cycles ∧
    (readOffset s 0x44).1 ++ (readOffset s 0x40).1 = s.cs.pos.ch0 ∧
    (readOffset s 0x4C).1 ++ (readOffset s 0x48).1 = s.cs.pos.ch1 ∧
    (readOffset s 0x54).1 ++ (readOffset s 0x50).1 = s.cs.pos.ch2 ∧
    (readOffset s 0x5C).1 ++ (readOffset s 0x58).1 = s.cs.alpha.ch0 ∧
    (readOffset s 0x64).1 ++ (readOffset s 0x60).1 = s.cs.alpha.ch1 ∧
    (readOffset s 0x6C).1 ++ (readOffset s 0x68).1 = s.cs.alpha.ch2 ∧
    (readOffset s 0x70).1.toNat =
      s.cs.mix.ch0.val + 4 * s.cs.mix.ch1.val + 16 * s.cs.mix.ch2.val + 256 * s.cs.tap.ch0.val + 1024 * s.cs.tap.ch1.val +
        4096 * s.cs.tap.ch2.val

/-- 20_memory.md R70: an aligned 32-bit read replies the register's value and changes nothing in the engine; two reads in a row while
idle give the same value; an aligned 32-bit write has the effect of its register; an access that is not an aligned 32-bit one is
refused, with the platform's MMIO_BAD_ACCESS (log 7, log 19). Events and replies are the model's form of the accesses (log 3). -/
def Obligations.RegisterReadsHaveNoSideEffects : Prop :=
  ∀ (s : State) (off : BitVec 8) (rest : List Event),
    (off.toNat % 4 = 0 →
      (s.inputs = .regRead .w32 off :: rest →
        step s = .next
          { s with
            inputs := rest, replies := s.replies ++ [.reg off (readOffset s off).1], draws := (readOffset s off).2 }) ∧
      (∀ v, s.inputs = .regWrite .w32 off v :: rest → step s = .next (writeOffset off v { s with inputs := rest })) ∧
      (s.busy = false →
        readOffset { s with replies := s.replies ++ [.reg off (readOffset s off).1], draws := (readOffset s off).2 } off =
          readOffset s off)) ∧
    (∀ (w : Width) (v : Word), w ≠ .w32 ∨ off.toNat % 4 ≠ 0 →
      (s.inputs = .regRead w off :: rest → step s = .refused (.badRegisterAccess s.setup.platform.mmioBadAccess)) ∧
      (s.inputs = .regWrite w off v :: rest → step s = .refused (.badRegisterAccess s.setup.platform.mmioBadAccess)))

/-- 10_state.md R24, R39, 60_exceptions.md R225: no register shows KEY, the key buffer, the transient state or a byte in flight. -/
def Obligations.KeyIsNeverReadable : Prop :=
  ∀ (s : State) (key kb : Vector Byte 18) (ts : Option Chaotic) (held : Option Byte) (off : BitVec 8),
    readOffset { s with key := key, kb := kb, ts := ts, held := held } off = readOffset s off

/-- 60_exceptions.md R210: the interrupt follows DONE under its enable; the completion of a command raises it when enabled, and
acceptance or a write of 1 to DONE drops it. -/
def Obligations.InterruptFollowsDone : Prop :=
  (∀ s : State, irq s = (s.ie && s.done)) ∧
  (∀ (i : Instr) (s t : State), s.busy = true → exec i s = .next t → irq t = s.ie) ∧
  (∀ (s : State) (w : Word), irq (accept w s) = false) ∧
  (∀ s : State, irq (writeOffset 0x0C 0x00000002 s) = false)

/-- R240, R241, R45: reset gives every piece of the engine's state its reset value, a running command is abandoned, and memory keeps
what has been written. -/
def Obligations.ResetAbandonsAndClears : Prop :=
  ∀ (s : State) (rest : List Event), s.inputs = .reset :: rest →
    ∃ t, step s = .next t ∧
      (∀ (k : Nat) (h : k < 18), t.key[k] = 0) ∧ t.keyValid = false ∧ t.cs = zeroChaotic ∧ t.chainValid = false ∧
      t.chainDir = .enc ∧ t.cycles = 0 ∧ t.ts = none ∧ t.held = none ∧ t.busy = false ∧ t.done = false ∧ t.nx = false ∧ t.ovr = false ∧
      t.err = .none ∧ t.errArg = .none ∧ t.errInfo = 0 ∧ t.ie = false ∧ t.ops = zeroOperands ∧
      ctrlWord t = 0 ∧ statusWord t = 0 ∧ irq t = false ∧ t.mem = s.mem ∧ t.setup = s.setup

/-- 10_state.md R45: the machine's first state has the reset values the spec gives. -/
def Obligations.ResetStateHasResetValues : Prop :=
  (∀ (k : Nat) (h : k < 18), State.reset.key[k] = 0) ∧ State.reset.keyValid = false ∧ State.reset.cs = zeroChaotic ∧
  State.reset.chainValid = false ∧ State.reset.chainDir = .enc ∧ State.reset.cycles = 0 ∧ State.reset.ts = none ∧ State.reset.held = none ∧
  State.reset.busy = false ∧ ctrlWord State.reset = 0 ∧ statusWord State.reset = 0 ∧ State.reset.errInfo = 0 ∧
  State.reset.ops = zeroOperands ∧ irq State.reset = false

/-- 70_reset_and_hazards.md R242: only reset, CLEAR and a successful KEY_LOAD change KEY. That the step that changes it is the one that
completes is the model's choice (log 32). -/
def Obligations.KeyChangesOnlyByLoadClearReset : Prop :=
  ∀ s t : State, step s = .next t → t.key ≠ s.key →
    s.inputs.head? = some .reset ∨
    (s.busy = true ∧ fetch s = .clear ∧ t.busy = false) ∨
    (s.busy = true ∧ fetch s = .keyLoad ∧ t.busy = false ∧ t.keyValid = true ∧ t.err = s.err)

/-- 43_chaining_mode.md R172: a live chain ends only by reset, CLEAR, a successful KEY_LOAD or a bus error in CHAIN_CRYPT, and its
state changes otherwise only by CHAIN_CRYPT and a new CHAIN_INIT. -/
def Obligations.ChainEndsOnlyAsListed : Prop :=
  ∀ s t : State, s.chainValid = true → step s = .next t →
    (t.chainValid = false →
      s.inputs.head? = some .reset ∨
      (s.busy = true ∧ (fetch s = .clear ∨ (fetch s = .keyLoad ∧ t.keyValid = true ∧ t.err = s.err) ∨
        (fetch s = .chainCrypt ∧ t.err = .busError)))) ∧
    (t.chainValid = true → t.cs ≠ s.cs ∨ t.cycles ≠ s.cycles ∨ t.chainDir ≠ s.chainDir →
      s.busy = true ∧ (fetch s = .chainCrypt ∨ fetch s = .chainInitEnc ∨ fetch s = .chainInitDec))

/-- 20_memory.md R73, R77, in the model's form of the caches (log 18). When coherent, a host store reaches memory at once and a load
sees memory. When not, a store stays in the caches until it is cleaned: of the events that are no other master's write and no turn
of the engine, a clean alone changes memory, and only at its address. A loaded byte then stays as it was, whatever is written to
memory, until it is invalidated. 70_reset_and_hazards.md R251: another master's write changes its byte of memory and nothing else.
StepRunsTheDecodedCommand says that the events are these functions. Away from plain memory the accesses are refused (log 20). -/
def Obligations.CachedStoreNeedsCleaning : Prop :=
  ∀ (s : State) (a : Word) (v : Byte), s.mem.wf = true → plainMemory s.setup.platform a.toNat = true →
    (s.setup.platform.memCoherent = true →
      (∃ t, hostStore a v s = .next t ∧ t.mem.read a.toNat = v ∧ ∀ x, x ≠ a.toNat → t.mem.read x = s.mem.read x) ∧
      ∃ t, hostLoad a s = .next t ∧ t.mem = s.mem ∧ t.replies = s.replies ++ [.mem a (s.mem.read a.toNat)]) ∧
    (s.setup.platform.memCoherent = false →
      (∃ t, hostStore a v s = .next t ∧ t.mem = s.mem ∧ hostSees t a.toNat = v ∧ (hostClean a t).mem.read a.toNat = v) ∧
      (∀ e t, happen e s = .next t → (∀ x, e ≠ .hostClean x) → (∀ x y, e ≠ .busWrite x y) → (∀ n, e ≠ .engine n) → t.mem = s.mem) ∧
      (∀ x, x ≠ a.toNat → (hostClean a s).mem.read x = s.mem.read x) ∧
      ∃ t, hostLoad a s = .next t ∧ t.mem = s.mem ∧ t.replies = s.replies ++ [.mem a (hostSees s a.toNat)] ∧
        ∀ b : Byte, hostSees { t with mem := t.mem.write a.toNat b } a.toNat = hostSees s a.toNat) ∧
    (∀ b : Byte, hostSees (hostInvalidate a { s with mem := s.mem.write a.toNat b }) a.toNat = b) ∧
    (∃ m : Memory, busWrite a v s = .next { s with mem := m } ∧ m.read a.toNat = v ∧ ∀ x, x ≠ a.toNat → m.read x = s.mem.read x) ∧
    (∀ b : Word, plainMemory s.setup.platform b.toNat = false →
      hostStore b v s = .refused .hostAccessOutsideMemory ∧ hostLoad b s = .refused .hostAccessOutsideMemory ∧
      busWrite b v s = .refused .hostAccessOutsideMemory)

/-- 70_reset_and_hazards.md R250 to R252 and 10_state.md R44: an event that keeps the host's duties does not change what a running
command does to the key, the chain, the error report or its destination. With NX = 1 the two runs agree because they draw the same values
of CVT_OOR (log 10). -/
def Obligations.DutifulHostDoesNotDisturb : Prop :=
  ∀ (s s1 t : State) (e : Event), s.mem.wf = true → s.busy = true → dutiful s e = true → e ≠ .reset → (∀ n, e ≠ .engine n) →
    happen e s = .next s1 → exec (fetch s) s = .next t →
    ∃ t1, exec (fetch s1) s1 = .next t1 ∧
      t1.key = t.key ∧ t1.keyValid = t.keyValid ∧ t1.cs = t.cs ∧ t1.chainValid = t.chainValid ∧ t1.chainDir = t.chainDir ∧
      t1.cycles = t.cycles ∧ t1.busy = t.busy ∧ t1.done = t.done ∧
      t1.err = t.err ∧ t1.errArg = t.errArg ∧ t1.errInfo = t.errInfo ∧
      ∀ a, inBuffer a (dst s) (dataBytes (fetch s) s) = true → t1.mem.read a = t.mem.read a
end

