-- ==== Sys2Proof/Laws/Memory.lean ====
section
/-! SUPPORT. The laws of bus memory: read after write, the frame of a write, the canonical form, and what an engine access can
answer (spec 20_memory.md R60, R62, R69, R78). -/

namespace Sys2Proof.Machine

@[simp] theorem Memory.read_nil (x : Nat) : Memory.read [] x = Memory.unlisted := rfl

theorem Memory.read_cons (a : Nat) (v : Byte) (m : Memory) (x : Nat) :
    Memory.read ((a, v) :: m) x = if a = x then v else Memory.read m x := rfl

/-- No address below `low` is listed. -/
theorem Memory.read_below {m : Memory} {low x : Nat} (h : Memory.wfFrom low m = true) (hx : x < low) :
    m.read x = Memory.unlisted := by
  induction m generalizing low with
  | nil => rfl
  | cons c m ih =>
    obtain ⟨a, v⟩ := c
    simp only [Memory.wfFrom, Bool.and_eq_true, decide_eq_true_eq] at h
    rw [Memory.read_cons, if_neg (by omega)]
    exact ih h.2 (by omega)

/-- A write leaves every other address as it was, in canonical form or not. -/
@[simp] theorem Memory.read_write_other (m : Memory) {x y : Nat} (v : Byte) (h : y ≠ x) :
    (m.write x v).read y = m.read y := by
  induction m with
  | nil =>
    simp only [Memory.write]
    split <;> simp [Memory.read_cons, Ne.symm h]
  | cons c m ih =>
    obtain ⟨a, w⟩ := c
    simp only [Memory.write]
    split
    · split <;> simp [Memory.read_cons, Ne.symm h]
    · split
      · rename_i hx
        subst hx
        split <;> simp [Memory.read_cons, Ne.symm h]
      · simp [Memory.read_cons, ih]

/-- A read after a write to the same address gives the byte written. -/
theorem Memory.read_write_same_from {m : Memory} {low : Nat} (x : Nat) (v : Byte) (h : Memory.wfFrom low m = true) :
    (m.write x v).read x = v := by
  induction m generalizing low with
  | nil =>
    simp only [Memory.write]
    split <;> simp_all [Memory.read_cons]
  | cons c m ih =>
    obtain ⟨a, w⟩ := c
    simp only [Memory.wfFrom, Bool.and_eq_true, decide_eq_true_eq] at h
    simp only [Memory.write]
    split
    · rename_i hxa
      split
      · rename_i hv
        rw [Memory.read_cons, if_neg (by omega), hv]
        exact Memory.read_below h.2 (by omega)
      · simp [Memory.read_cons]
    · split
      · rename_i hxa
        split
        · rename_i hv
          rw [hv]
          exact Memory.read_below h.2 (by omega)
        · simp [Memory.read_cons]
      · rename_i hlt hne
        rw [Memory.read_cons, if_neg (fun e => hne e.symm)]
        exact ih h.2

@[simp] theorem Memory.read_write_same {m : Memory} (x : Nat) (v : Byte) (h : m.wf = true) : (m.write x v).read x = v :=
  Memory.read_write_same_from x v h

theorem Memory.wfFrom_mono {m : Memory} {low low' : Nat} (h : Memory.wfFrom low m = true) (hl : low' ≤ low) :
    Memory.wfFrom low' m = true := by
  cases m with
  | nil => rfl
  | cons c m =>
    obtain ⟨a, v⟩ := c
    simp only [Memory.wfFrom, Bool.and_eq_true, decide_eq_true_eq] at h ⊢
    exact ⟨⟨by omega, h.1.2⟩, h.2⟩

theorem Memory.wfFrom_write {m : Memory} {low : Nat} (x : Nat) (v : Byte) (h : Memory.wfFrom low m = true) (hx : low ≤ x) :
    Memory.wfFrom low (m.write x v) = true := by
  induction m generalizing low with
  | nil =>
    simp only [Memory.write]
    split <;> simp_all [Memory.wfFrom]
  | cons c m ih =>
    obtain ⟨a, w⟩ := c
    have h' := h
    simp only [Memory.wfFrom, Bool.and_eq_true, decide_eq_true_eq] at h'
    simp only [Memory.write]
    split
    · split
      · exact h
      · rename_i hv
        simp only [Memory.wfFrom, Bool.and_eq_true, decide_eq_true_eq]
        exact ⟨⟨hx, by simpa using hv⟩, ⟨by omega, h'.1.2⟩, h'.2⟩
    · split
      · rename_i hxa
        split
        · exact Memory.wfFrom_mono h'.2 (by omega)
        · rename_i hv
          simp only [Memory.wfFrom, Bool.and_eq_true, decide_eq_true_eq]
          exact ⟨⟨hx, by simpa using hv⟩, by rw [hxa]; exact h'.2⟩
      · simp only [Memory.wfFrom, Bool.and_eq_true, decide_eq_true_eq]
        exact ⟨h'.1, ih h'.2 (by omega)⟩

/-- Every write keeps the canonical form. -/
@[simp] theorem Memory.wf_write {m : Memory} (x : Nat) (v : Byte) (h : m.wf = true) : (m.write x v).wf = true :=
  Memory.wfFrom_write x v h (Nat.zero_le x)

/-- What an engine read can answer (R78, R256). -/
theorem memRead_cases (s : State) (a : Nat) :
    (inRanges s.setup.platform.busErrRead a = true ∧ memRead s a = .busError) ∨
    (inRanges s.setup.platform.busErrRead a = false ∧ holdsMemory s.setup.platform a = true ∧ memRead s a = .data (s.mem.read a)) ∨
    (inRanges s.setup.platform.busErrRead a = false ∧ holdsMemory s.setup.platform a = false ∧ memRead s a = .noAnswer) := by
  unfold memRead
  cases inRanges s.setup.platform.busErrRead a <;> cases holdsMemory s.setup.platform a <;> simp

/-- What an engine write can answer (R78, R256). -/
theorem memWrite_cases (s : State) (a : Nat) (v : Byte) :
    (inRanges s.setup.platform.busErrWrite a = true ∧ memWrite s a v = .busError) ∨
    (inRanges s.setup.platform.busErrWrite a = false ∧ holdsMemory s.setup.platform a = true ∧
      memWrite s a v = .data (s.mem.write a v)) ∨
    (inRanges s.setup.platform.busErrWrite a = false ∧ holdsMemory s.setup.platform a = false ∧ memWrite s a v = .noAnswer) := by
  unfold memWrite
  cases inRanges s.setup.platform.busErrWrite a <;> cases holdsMemory s.setup.platform a <;> simp

end Sys2Proof.Machine
end

