-- ==== Sys2Proof/Laws/State.lean ====
section
/-! SUPPORT. What each named update of the state leaves in each field, so that no proof unfolds a record update. -/

namespace Sys2Proof.Machine

variable (s : State)

/-! ### `complete` -/

@[simp] theorem complete_key : (complete s).key = s.key := rfl
@[simp] theorem complete_keyValid : (complete s).keyValid = s.keyValid := rfl
@[simp] theorem complete_cs : (complete s).cs = s.cs := rfl
@[simp] theorem complete_chainValid : (complete s).chainValid = s.chainValid := rfl
@[simp] theorem complete_chainDir : (complete s).chainDir = s.chainDir := rfl
@[simp] theorem complete_cycles : (complete s).cycles = s.cycles := rfl
@[simp] theorem complete_ts : (complete s).ts = none := rfl
@[simp] theorem complete_busy : (complete s).busy = false := rfl
@[simp] theorem complete_lCmd : (complete s).lCmd = s.lCmd := rfl
@[simp] theorem complete_latch : (complete s).latch = s.latch := rfl
@[simp] theorem complete_idx : (complete s).idx = s.idx := rfl
@[simp] theorem complete_held : (complete s).held = none := rfl
@[simp] theorem complete_kb : (complete s).kb = s.kb := rfl
@[simp] theorem complete_ie : (complete s).ie = s.ie := rfl
@[simp] theorem complete_done : (complete s).done = true := rfl
@[simp] theorem complete_nx : (complete s).nx = s.nx := rfl
@[simp] theorem complete_ovr : (complete s).ovr = s.ovr := rfl
@[simp] theorem complete_err : (complete s).err = s.err := rfl
@[simp] theorem complete_errArg : (complete s).errArg = s.errArg := rfl
@[simp] theorem complete_errInfo : (complete s).errInfo = s.errInfo := rfl
@[simp] theorem complete_ops : (complete s).ops = s.ops := rfl
@[simp] theorem complete_mem : (complete s).mem = s.mem := rfl
@[simp] theorem complete_hostCache : (complete s).hostCache = s.hostCache := rfl
@[simp] theorem complete_setup : (complete s).setup = s.setup := rfl
@[simp] theorem complete_inputs : (complete s).inputs = s.inputs := rfl
@[simp] theorem complete_replies : (complete s).replies = s.replies := rfl
@[simp] theorem complete_draws : (complete s).draws = s.draws := rfl

/-! ### `raiseError` -/

@[simp] theorem raiseError_key (r : Report) : (raiseError r s).key = s.key := rfl
@[simp] theorem raiseError_keyValid (r : Report) : (raiseError r s).keyValid = s.keyValid := rfl
@[simp] theorem raiseError_cs (r : Report) : (raiseError r s).cs = s.cs := rfl
@[simp] theorem raiseError_chainValid (r : Report) : (raiseError r s).chainValid = s.chainValid := rfl
@[simp] theorem raiseError_chainDir (r : Report) : (raiseError r s).chainDir = s.chainDir := rfl
@[simp] theorem raiseError_cycles (r : Report) : (raiseError r s).cycles = s.cycles := rfl
@[simp] theorem raiseError_ts (r : Report) : (raiseError r s).ts = none := rfl
@[simp] theorem raiseError_busy (r : Report) : (raiseError r s).busy = false := rfl
@[simp] theorem raiseError_lCmd (r : Report) : (raiseError r s).lCmd = s.lCmd := rfl
@[simp] theorem raiseError_latch (r : Report) : (raiseError r s).latch = s.latch := rfl
@[simp] theorem raiseError_idx (r : Report) : (raiseError r s).idx = s.idx := rfl
@[simp] theorem raiseError_held (r : Report) : (raiseError r s).held = none := rfl
@[simp] theorem raiseError_kb (r : Report) : (raiseError r s).kb = s.kb := rfl
@[simp] theorem raiseError_ie (r : Report) : (raiseError r s).ie = s.ie := rfl
@[simp] theorem raiseError_done (r : Report) : (raiseError r s).done = true := rfl
@[simp] theorem raiseError_nx (r : Report) : (raiseError r s).nx = s.nx := rfl
@[simp] theorem raiseError_ovr (r : Report) : (raiseError r s).ovr = s.ovr := rfl
@[simp] theorem raiseError_err (r : Report) : (raiseError r s).err = r.err := rfl
@[simp] theorem raiseError_errArg (r : Report) : (raiseError r s).errArg = r.arg := rfl
@[simp] theorem raiseError_errInfo (r : Report) : (raiseError r s).errInfo = r.info := rfl
@[simp] theorem raiseError_ops (r : Report) : (raiseError r s).ops = s.ops := rfl
@[simp] theorem raiseError_mem (r : Report) : (raiseError r s).mem = s.mem := rfl
@[simp] theorem raiseError_hostCache (r : Report) : (raiseError r s).hostCache = s.hostCache := rfl
@[simp] theorem raiseError_setup (r : Report) : (raiseError r s).setup = s.setup := rfl
@[simp] theorem raiseError_inputs (r : Report) : (raiseError r s).inputs = s.inputs := rfl
@[simp] theorem raiseError_replies (r : Report) : (raiseError r s).replies = s.replies := rfl
@[simp] theorem raiseError_draws (r : Report) : (raiseError r s).draws = s.draws := rfl

/-! ### `raiseIllegal` -/

@[simp] theorem raiseIllegal_key : (raiseIllegal s).key = s.key := rfl
@[simp] theorem raiseIllegal_keyValid : (raiseIllegal s).keyValid = s.keyValid := rfl
@[simp] theorem raiseIllegal_cs : (raiseIllegal s).cs = s.cs := rfl
@[simp] theorem raiseIllegal_chainValid : (raiseIllegal s).chainValid = s.chainValid := rfl
@[simp] theorem raiseIllegal_chainDir : (raiseIllegal s).chainDir = s.chainDir := rfl
@[simp] theorem raiseIllegal_cycles : (raiseIllegal s).cycles = s.cycles := rfl
@[simp] theorem raiseIllegal_ts : (raiseIllegal s).ts = none := rfl
@[simp] theorem raiseIllegal_busy : (raiseIllegal s).busy = false := rfl
@[simp] theorem raiseIllegal_lCmd : (raiseIllegal s).lCmd = s.lCmd := rfl
@[simp] theorem raiseIllegal_latch : (raiseIllegal s).latch = s.latch := rfl
@[simp] theorem raiseIllegal_idx : (raiseIllegal s).idx = s.idx := rfl
@[simp] theorem raiseIllegal_held : (raiseIllegal s).held = none := rfl
@[simp] theorem raiseIllegal_kb : (raiseIllegal s).kb = s.kb := rfl
@[simp] theorem raiseIllegal_ie : (raiseIllegal s).ie = s.ie := rfl
@[simp] theorem raiseIllegal_done : (raiseIllegal s).done = true := rfl
@[simp] theorem raiseIllegal_nx : (raiseIllegal s).nx = s.nx := rfl
@[simp] theorem raiseIllegal_ovr : (raiseIllegal s).ovr = s.ovr := rfl
@[simp] theorem raiseIllegal_err : (raiseIllegal s).err = .illegalCommand := rfl
@[simp] theorem raiseIllegal_errArg : (raiseIllegal s).errArg = .none := rfl
@[simp] theorem raiseIllegal_errInfo : (raiseIllegal s).errInfo = s.lCmd := rfl
@[simp] theorem raiseIllegal_ops : (raiseIllegal s).ops = s.ops := rfl
@[simp] theorem raiseIllegal_mem : (raiseIllegal s).mem = s.mem := rfl
@[simp] theorem raiseIllegal_hostCache : (raiseIllegal s).hostCache = s.hostCache := rfl
@[simp] theorem raiseIllegal_setup : (raiseIllegal s).setup = s.setup := rfl
@[simp] theorem raiseIllegal_inputs : (raiseIllegal s).inputs = s.inputs := rfl
@[simp] theorem raiseIllegal_replies : (raiseIllegal s).replies = s.replies := rfl
@[simp] theorem raiseIllegal_draws : (raiseIllegal s).draws = s.draws := rfl

/-! ### `accept` -/

@[simp] theorem accept_key (w : Word) : (accept w s).key = s.key := rfl
@[simp] theorem accept_keyValid (w : Word) : (accept w s).keyValid = s.keyValid := rfl
@[simp] theorem accept_cs (w : Word) : (accept w s).cs = s.cs := rfl
@[simp] theorem accept_chainValid (w : Word) : (accept w s).chainValid = s.chainValid := rfl
@[simp] theorem accept_chainDir (w : Word) : (accept w s).chainDir = s.chainDir := rfl
@[simp] theorem accept_cycles (w : Word) : (accept w s).cycles = s.cycles := rfl
@[simp] theorem accept_ts (w : Word) : (accept w s).ts = none := rfl
@[simp] theorem accept_busy (w : Word) : (accept w s).busy = true := rfl
@[simp] theorem accept_lCmd (w : Word) : (accept w s).lCmd = w := rfl
@[simp] theorem accept_latch (w : Word) : (accept w s).latch = s.ops := rfl
@[simp] theorem accept_idx (w : Word) : (accept w s).idx = 0 := rfl
@[simp] theorem accept_held (w : Word) : (accept w s).held = none := rfl
@[simp] theorem accept_kb (w : Word) : (accept w s).kb = s.kb := rfl
@[simp] theorem accept_ie (w : Word) : (accept w s).ie = s.ie := rfl
@[simp] theorem accept_done (w : Word) : (accept w s).done = false := rfl
@[simp] theorem accept_nx (w : Word) : (accept w s).nx = s.nx := rfl
@[simp] theorem accept_ovr (w : Word) : (accept w s).ovr = s.ovr := rfl
@[simp] theorem accept_err (w : Word) : (accept w s).err = .none := rfl
@[simp] theorem accept_errArg (w : Word) : (accept w s).errArg = .none := rfl
@[simp] theorem accept_errInfo (w : Word) : (accept w s).errInfo = 0 := rfl
@[simp] theorem accept_ops (w : Word) : (accept w s).ops = s.ops := rfl
@[simp] theorem accept_mem (w : Word) : (accept w s).mem = s.mem := rfl
@[simp] theorem accept_hostCache (w : Word) : (accept w s).hostCache = s.hostCache := rfl
@[simp] theorem accept_setup (w : Word) : (accept w s).setup = s.setup := rfl
@[simp] theorem accept_inputs (w : Word) : (accept w s).inputs = s.inputs := rfl
@[simp] theorem accept_replies (w : Word) : (accept w s).replies = s.replies := rfl
@[simp] theorem accept_draws (w : Word) : (accept w s).draws = s.draws := rfl

/-! ### `loseChain` -/

@[simp] theorem loseChain_key : (loseChain s).key = s.key := rfl
@[simp] theorem loseChain_keyValid : (loseChain s).keyValid = s.keyValid := rfl
@[simp] theorem loseChain_cs : (loseChain s).cs = lostChaotic s.draws := rfl
@[simp] theorem loseChain_chainValid : (loseChain s).chainValid = false := rfl
@[simp] theorem loseChain_chainDir : (loseChain s).chainDir = s.chainDir := rfl
@[simp] theorem loseChain_cycles : (loseChain s).cycles = Config.lostCycles s.draws := rfl
@[simp] theorem loseChain_ts : (loseChain s).ts = s.ts := rfl
@[simp] theorem loseChain_busy : (loseChain s).busy = s.busy := rfl
@[simp] theorem loseChain_lCmd : (loseChain s).lCmd = s.lCmd := rfl
@[simp] theorem loseChain_latch : (loseChain s).latch = s.latch := rfl
@[simp] theorem loseChain_idx : (loseChain s).idx = s.idx := rfl
@[simp] theorem loseChain_held : (loseChain s).held = s.held := rfl
@[simp] theorem loseChain_kb : (loseChain s).kb = s.kb := rfl
@[simp] theorem loseChain_ie : (loseChain s).ie = s.ie := rfl
@[simp] theorem loseChain_done : (loseChain s).done = s.done := rfl
@[simp] theorem loseChain_nx : (loseChain s).nx = s.nx := rfl
@[simp] theorem loseChain_ovr : (loseChain s).ovr = s.ovr := rfl
@[simp] theorem loseChain_err : (loseChain s).err = s.err := rfl
@[simp] theorem loseChain_errArg : (loseChain s).errArg = s.errArg := rfl
@[simp] theorem loseChain_errInfo : (loseChain s).errInfo = s.errInfo := rfl
@[simp] theorem loseChain_ops : (loseChain s).ops = s.ops := rfl
@[simp] theorem loseChain_mem : (loseChain s).mem = s.mem := rfl
@[simp] theorem loseChain_hostCache : (loseChain s).hostCache = s.hostCache := rfl
@[simp] theorem loseChain_setup : (loseChain s).setup = s.setup := rfl
@[simp] theorem loseChain_inputs : (loseChain s).inputs = s.inputs := rfl
@[simp] theorem loseChain_replies : (loseChain s).replies = s.replies := rfl
@[simp] theorem loseChain_draws : (loseChain s).draws = s.draws + 6 := rfl

/-! ### `deriveTs` -/

@[simp] theorem deriveTs_key : (deriveTs s).key = s.key := rfl
@[simp] theorem deriveTs_keyValid : (deriveTs s).keyValid = s.keyValid := rfl
@[simp] theorem deriveTs_cs : (deriveTs s).cs = s.cs := rfl
@[simp] theorem deriveTs_chainValid : (deriveTs s).chainValid = s.chainValid := rfl
@[simp] theorem deriveTs_chainDir : (deriveTs s).chainDir = s.chainDir := rfl
@[simp] theorem deriveTs_cycles : (deriveTs s).cycles = s.cycles := rfl
@[simp] theorem deriveTs_ts : (deriveTs s).ts = some (transient s) := rfl
@[simp] theorem deriveTs_busy : (deriveTs s).busy = s.busy := rfl
@[simp] theorem deriveTs_lCmd : (deriveTs s).lCmd = s.lCmd := rfl
@[simp] theorem deriveTs_latch : (deriveTs s).latch = s.latch := rfl
@[simp] theorem deriveTs_idx : (deriveTs s).idx = s.idx := rfl
@[simp] theorem deriveTs_held : (deriveTs s).held = s.held := rfl
@[simp] theorem deriveTs_kb : (deriveTs s).kb = s.kb := rfl
@[simp] theorem deriveTs_ie : (deriveTs s).ie = s.ie := rfl
@[simp] theorem deriveTs_done : (deriveTs s).done = s.done := rfl
@[simp] theorem deriveTs_nx : (deriveTs s).nx = s.nx := rfl
@[simp] theorem deriveTs_ovr : (deriveTs s).ovr = s.ovr := rfl
@[simp] theorem deriveTs_err : (deriveTs s).err = s.err := rfl
@[simp] theorem deriveTs_errArg : (deriveTs s).errArg = s.errArg := rfl
@[simp] theorem deriveTs_errInfo : (deriveTs s).errInfo = s.errInfo := rfl
@[simp] theorem deriveTs_ops : (deriveTs s).ops = s.ops := rfl
@[simp] theorem deriveTs_mem : (deriveTs s).mem = s.mem := rfl
@[simp] theorem deriveTs_hostCache : (deriveTs s).hostCache = s.hostCache := rfl
@[simp] theorem deriveTs_setup : (deriveTs s).setup = s.setup := rfl
@[simp] theorem deriveTs_inputs : (deriveTs s).inputs = s.inputs := rfl
@[simp] theorem deriveTs_replies : (deriveTs s).replies = s.replies := rfl
@[simp] theorem deriveTs_draws : (deriveTs s).draws = s.draws := rfl

/-! ### `commitKey` -/

@[simp] theorem commitKey_key : (commitKey s).key = s.kb := rfl
@[simp] theorem commitKey_keyValid : (commitKey s).keyValid = true := rfl
@[simp] theorem commitKey_cs : (commitKey s).cs = s.cs := rfl
@[simp] theorem commitKey_chainValid : (commitKey s).chainValid = false := rfl
@[simp] theorem commitKey_chainDir : (commitKey s).chainDir = s.chainDir := rfl
@[simp] theorem commitKey_cycles : (commitKey s).cycles = s.cycles := rfl
@[simp] theorem commitKey_ts : (commitKey s).ts = s.ts := rfl
@[simp] theorem commitKey_busy : (commitKey s).busy = s.busy := rfl
@[simp] theorem commitKey_lCmd : (commitKey s).lCmd = s.lCmd := rfl
@[simp] theorem commitKey_latch : (commitKey s).latch = s.latch := rfl
@[simp] theorem commitKey_idx : (commitKey s).idx = s.idx := rfl
@[simp] theorem commitKey_held : (commitKey s).held = s.held := rfl
@[simp] theorem commitKey_kb : (commitKey s).kb = s.kb := rfl
@[simp] theorem commitKey_ie : (commitKey s).ie = s.ie := rfl
@[simp] theorem commitKey_done : (commitKey s).done = s.done := rfl
@[simp] theorem commitKey_nx : (commitKey s).nx = s.nx := rfl
@[simp] theorem commitKey_ovr : (commitKey s).ovr = s.ovr := rfl
@[simp] theorem commitKey_err : (commitKey s).err = s.err := rfl
@[simp] theorem commitKey_errArg : (commitKey s).errArg = s.errArg := rfl
@[simp] theorem commitKey_errInfo : (commitKey s).errInfo = s.errInfo := rfl
@[simp] theorem commitKey_ops : (commitKey s).ops = s.ops := rfl
@[simp] theorem commitKey_mem : (commitKey s).mem = s.mem := rfl
@[simp] theorem commitKey_hostCache : (commitKey s).hostCache = s.hostCache := rfl
@[simp] theorem commitKey_setup : (commitKey s).setup = s.setup := rfl
@[simp] theorem commitKey_inputs : (commitKey s).inputs = s.inputs := rfl
@[simp] theorem commitKey_replies : (commitKey s).replies = s.replies := rfl
@[simp] theorem commitKey_draws : (commitKey s).draws = s.draws := rfl

/-! ### `clearKeyAndChain` -/

@[simp] theorem clearKeyAndChain_key : (clearKeyAndChain s).key = zeroKey := rfl
@[simp] theorem clearKeyAndChain_keyValid : (clearKeyAndChain s).keyValid = false := rfl
@[simp] theorem clearKeyAndChain_cs : (clearKeyAndChain s).cs = zeroChaotic := rfl
@[simp] theorem clearKeyAndChain_chainValid : (clearKeyAndChain s).chainValid = false := rfl
@[simp] theorem clearKeyAndChain_chainDir : (clearKeyAndChain s).chainDir = .enc := rfl
@[simp] theorem clearKeyAndChain_cycles : (clearKeyAndChain s).cycles = 0 := rfl
@[simp] theorem clearKeyAndChain_ts : (clearKeyAndChain s).ts = s.ts := rfl
@[simp] theorem clearKeyAndChain_busy : (clearKeyAndChain s).busy = s.busy := rfl
@[simp] theorem clearKeyAndChain_lCmd : (clearKeyAndChain s).lCmd = s.lCmd := rfl
@[simp] theorem clearKeyAndChain_latch : (clearKeyAndChain s).latch = s.latch := rfl
@[simp] theorem clearKeyAndChain_idx : (clearKeyAndChain s).idx = s.idx := rfl
@[simp] theorem clearKeyAndChain_held : (clearKeyAndChain s).held = s.held := rfl
@[simp] theorem clearKeyAndChain_kb : (clearKeyAndChain s).kb = s.kb := rfl
@[simp] theorem clearKeyAndChain_ie : (clearKeyAndChain s).ie = s.ie := rfl
@[simp] theorem clearKeyAndChain_done : (clearKeyAndChain s).done = s.done := rfl
@[simp] theorem clearKeyAndChain_nx : (clearKeyAndChain s).nx = s.nx := rfl
@[simp] theorem clearKeyAndChain_ovr : (clearKeyAndChain s).ovr = s.ovr := rfl
@[simp] theorem clearKeyAndChain_err : (clearKeyAndChain s).err = s.err := rfl
@[simp] theorem clearKeyAndChain_errArg : (clearKeyAndChain s).errArg = s.errArg := rfl
@[simp] theorem clearKeyAndChain_errInfo : (clearKeyAndChain s).errInfo = s.errInfo := rfl
@[simp] theorem clearKeyAndChain_ops : (clearKeyAndChain s).ops = s.ops := rfl
@[simp] theorem clearKeyAndChain_mem : (clearKeyAndChain s).mem = s.mem := rfl
@[simp] theorem clearKeyAndChain_hostCache : (clearKeyAndChain s).hostCache = s.hostCache := rfl
@[simp] theorem clearKeyAndChain_setup : (clearKeyAndChain s).setup = s.setup := rfl
@[simp] theorem clearKeyAndChain_inputs : (clearKeyAndChain s).inputs = s.inputs := rfl
@[simp] theorem clearKeyAndChain_replies : (clearKeyAndChain s).replies = s.replies := rfl
@[simp] theorem clearKeyAndChain_draws : (clearKeyAndChain s).draws = s.draws := rfl

/-! ### `writeStatus` -/

@[simp] theorem writeStatus_key (v : Word) : (writeStatus v s).key = s.key := rfl
@[simp] theorem writeStatus_keyValid (v : Word) : (writeStatus v s).keyValid = s.keyValid := rfl
@[simp] theorem writeStatus_cs (v : Word) : (writeStatus v s).cs = s.cs := rfl
@[simp] theorem writeStatus_chainValid (v : Word) : (writeStatus v s).chainValid = s.chainValid := rfl
@[simp] theorem writeStatus_chainDir (v : Word) : (writeStatus v s).chainDir = s.chainDir := rfl
@[simp] theorem writeStatus_cycles (v : Word) : (writeStatus v s).cycles = s.cycles := rfl
@[simp] theorem writeStatus_ts (v : Word) : (writeStatus v s).ts = s.ts := rfl
@[simp] theorem writeStatus_busy (v : Word) : (writeStatus v s).busy = s.busy := rfl
@[simp] theorem writeStatus_lCmd (v : Word) : (writeStatus v s).lCmd = s.lCmd := rfl
@[simp] theorem writeStatus_latch (v : Word) : (writeStatus v s).latch = s.latch := rfl
@[simp] theorem writeStatus_idx (v : Word) : (writeStatus v s).idx = s.idx := rfl
@[simp] theorem writeStatus_held (v : Word) : (writeStatus v s).held = s.held := rfl
@[simp] theorem writeStatus_kb (v : Word) : (writeStatus v s).kb = s.kb := rfl
@[simp] theorem writeStatus_ie (v : Word) : (writeStatus v s).ie = s.ie := rfl
@[simp] theorem writeStatus_done (v : Word) : (writeStatus v s).done = w1c s.done (v.getLsbD 1) := rfl
@[simp] theorem writeStatus_nx (v : Word) : (writeStatus v s).nx = w1c s.nx (v.getLsbD 5) := rfl
@[simp] theorem writeStatus_ovr (v : Word) : (writeStatus v s).ovr = w1c s.ovr (v.getLsbD 6) := rfl
@[simp] theorem writeStatus_err (v : Word) : (writeStatus v s).err = s.err := rfl
@[simp] theorem writeStatus_errArg (v : Word) : (writeStatus v s).errArg = s.errArg := rfl
@[simp] theorem writeStatus_errInfo (v : Word) : (writeStatus v s).errInfo = s.errInfo := rfl
@[simp] theorem writeStatus_ops (v : Word) : (writeStatus v s).ops = s.ops := rfl
@[simp] theorem writeStatus_mem (v : Word) : (writeStatus v s).mem = s.mem := rfl
@[simp] theorem writeStatus_hostCache (v : Word) : (writeStatus v s).hostCache = s.hostCache := rfl
@[simp] theorem writeStatus_setup (v : Word) : (writeStatus v s).setup = s.setup := rfl
@[simp] theorem writeStatus_inputs (v : Word) : (writeStatus v s).inputs = s.inputs := rfl
@[simp] theorem writeStatus_replies (v : Word) : (writeStatus v s).replies = s.replies := rfl
@[simp] theorem writeStatus_draws (v : Word) : (writeStatus v s).draws = s.draws := rfl

/-! ### `writeCtrl` -/

@[simp] theorem writeCtrl_key (v : Word) : (writeCtrl v s).key = s.key := rfl
@[simp] theorem writeCtrl_keyValid (v : Word) : (writeCtrl v s).keyValid = s.keyValid := rfl
@[simp] theorem writeCtrl_cs (v : Word) : (writeCtrl v s).cs = s.cs := rfl
@[simp] theorem writeCtrl_chainValid (v : Word) : (writeCtrl v s).chainValid = s.chainValid := rfl
@[simp] theorem writeCtrl_chainDir (v : Word) : (writeCtrl v s).chainDir = s.chainDir := rfl
@[simp] theorem writeCtrl_cycles (v : Word) : (writeCtrl v s).cycles = s.cycles := rfl
@[simp] theorem writeCtrl_ts (v : Word) : (writeCtrl v s).ts = s.ts := rfl
@[simp] theorem writeCtrl_busy (v : Word) : (writeCtrl v s).busy = s.busy := rfl
@[simp] theorem writeCtrl_lCmd (v : Word) : (writeCtrl v s).lCmd = s.lCmd := rfl
@[simp] theorem writeCtrl_latch (v : Word) : (writeCtrl v s).latch = s.latch := rfl
@[simp] theorem writeCtrl_idx (v : Word) : (writeCtrl v s).idx = s.idx := rfl
@[simp] theorem writeCtrl_held (v : Word) : (writeCtrl v s).held = s.held := rfl
@[simp] theorem writeCtrl_kb (v : Word) : (writeCtrl v s).kb = s.kb := rfl
@[simp] theorem writeCtrl_ie (v : Word) : (writeCtrl v s).ie = v.getLsbD 0 := rfl
@[simp] theorem writeCtrl_done (v : Word) : (writeCtrl v s).done = s.done := rfl
@[simp] theorem writeCtrl_nx (v : Word) : (writeCtrl v s).nx = s.nx := rfl
@[simp] theorem writeCtrl_ovr (v : Word) : (writeCtrl v s).ovr = s.ovr := rfl
@[simp] theorem writeCtrl_err (v : Word) : (writeCtrl v s).err = s.err := rfl
@[simp] theorem writeCtrl_errArg (v : Word) : (writeCtrl v s).errArg = s.errArg := rfl
@[simp] theorem writeCtrl_errInfo (v : Word) : (writeCtrl v s).errInfo = s.errInfo := rfl
@[simp] theorem writeCtrl_ops (v : Word) : (writeCtrl v s).ops = s.ops := rfl
@[simp] theorem writeCtrl_mem (v : Word) : (writeCtrl v s).mem = s.mem := rfl
@[simp] theorem writeCtrl_hostCache (v : Word) : (writeCtrl v s).hostCache = s.hostCache := rfl
@[simp] theorem writeCtrl_setup (v : Word) : (writeCtrl v s).setup = s.setup := rfl
@[simp] theorem writeCtrl_inputs (v : Word) : (writeCtrl v s).inputs = s.inputs := rfl
@[simp] theorem writeCtrl_replies (v : Word) : (writeCtrl v s).replies = s.replies := rfl
@[simp] theorem writeCtrl_draws (v : Word) : (writeCtrl v s).draws = s.draws := rfl

/-! ### `resetEngine` -/

@[simp] theorem resetEngine_key : (resetEngine s).key = State.reset.key := rfl
@[simp] theorem resetEngine_keyValid : (resetEngine s).keyValid = State.reset.keyValid := rfl
@[simp] theorem resetEngine_cs : (resetEngine s).cs = State.reset.cs := rfl
@[simp] theorem resetEngine_chainValid : (resetEngine s).chainValid = State.reset.chainValid := rfl
@[simp] theorem resetEngine_chainDir : (resetEngine s).chainDir = State.reset.chainDir := rfl
@[simp] theorem resetEngine_cycles : (resetEngine s).cycles = State.reset.cycles := rfl
@[simp] theorem resetEngine_ts : (resetEngine s).ts = State.reset.ts := rfl
@[simp] theorem resetEngine_busy : (resetEngine s).busy = State.reset.busy := rfl
@[simp] theorem resetEngine_lCmd : (resetEngine s).lCmd = State.reset.lCmd := rfl
@[simp] theorem resetEngine_latch : (resetEngine s).latch = State.reset.latch := rfl
@[simp] theorem resetEngine_idx : (resetEngine s).idx = State.reset.idx := rfl
@[simp] theorem resetEngine_held : (resetEngine s).held = State.reset.held := rfl
@[simp] theorem resetEngine_kb : (resetEngine s).kb = State.reset.kb := rfl
@[simp] theorem resetEngine_ie : (resetEngine s).ie = State.reset.ie := rfl
@[simp] theorem resetEngine_done : (resetEngine s).done = State.reset.done := rfl
@[simp] theorem resetEngine_nx : (resetEngine s).nx = State.reset.nx := rfl
@[simp] theorem resetEngine_ovr : (resetEngine s).ovr = State.reset.ovr := rfl
@[simp] theorem resetEngine_err : (resetEngine s).err = State.reset.err := rfl
@[simp] theorem resetEngine_errArg : (resetEngine s).errArg = State.reset.errArg := rfl
@[simp] theorem resetEngine_errInfo : (resetEngine s).errInfo = State.reset.errInfo := rfl
@[simp] theorem resetEngine_ops : (resetEngine s).ops = State.reset.ops := rfl
@[simp] theorem resetEngine_mem : (resetEngine s).mem = s.mem := rfl
@[simp] theorem resetEngine_hostCache : (resetEngine s).hostCache = s.hostCache := rfl
@[simp] theorem resetEngine_setup : (resetEngine s).setup = s.setup := rfl
@[simp] theorem resetEngine_inputs : (resetEngine s).inputs = s.inputs := rfl
@[simp] theorem resetEngine_replies : (resetEngine s).replies = s.replies := rfl
@[simp] theorem resetEngine_draws : (resetEngine s).draws = s.draws := rfl

end Sys2Proof.Machine
end

