-- ==== Sys2Proof/Laws/Ops.lean ====
section
/-! SUPPORT. For each shared operation, once, everything it can do: the checks, the validation, the work phase access by access. Later
proofs cite these lemmas and unfold nothing. -/

namespace Sys2Proof.Machine

/-! ### Validation -/

theorem firstFailed_nil : firstFailed [] = none := rfl

theorem firstFailed_cons (b : Bool) (r : Report) (rest : List (Bool × Report)) :
    firstFailed ((b, r) :: rest) = if b then some r else firstFailed rest := rfl

theorem outOfRange_eq_false {a : Word} {n : Nat} : outOfRange a n = false ↔ (0 < n → a.toNat + n ≤ 2 ^ 32) := by
  simp [outOfRange]

theorem partialOverlap_eq_false {s d n : Nat} :
    partialOverlap s d n = false ↔ (0 < n → s ≠ d → s < d + n → d + n ≤ s ∨ s + n ≤ d) := by
  simp only [partialOverlap, decide_eq_false_iff_not]
  constructor
  · intro h hn hsd hlt
    by_contra hc
    exact h ⟨hn, hsd, hlt, by omega⟩
  · rintro h ⟨hn, hsd, h1, h2⟩
    have := h hn hsd h1
    omega

/-- A list of checks passes when each does. -/
theorem firstFailed_eq_none (l : List (Bool × Report)) : firstFailed l = none ↔ ∀ p ∈ l, p.1 = false := by
  induction l with
  | nil => simp [firstFailed_nil]
  | cons p l ih =>
    obtain ⟨b, r⟩ := p
    cases b <;> simp [firstFailed_cons, ih]

theorem checkKeyLoad_eq_none (s : State) :
    checkKeyLoad s = none ↔ s.latch.keyLen = 18 ∧ outOfRange s.latch.keyAddr 18 = false := by
  simp [checkKeyLoad, firstFailed_eq_none]

theorem checkBlock_eq_none (s : State) :
    checkBlock s = none ↔
      s.keyValid = true ∧ 16 ≤ s.latch.srcLen.toNat ∧ 16 ≤ s.latch.dstLen.toNat ∧
      outOfRange s.latch.srcAddr 16 = false ∧ outOfRange s.latch.dstAddr 16 = false ∧
      partialOverlap s.latch.srcAddr.toNat s.latch.dstAddr.toNat 16 = false := by
  simp [checkBlock, firstFailed_eq_none]

theorem checkChainInit_eq_none (s : State) : checkChainInit s = none ↔ s.keyValid = true := by
  simp [checkChainInit, firstFailed_eq_none]

theorem checkChainCrypt_eq_none (s : State) :
    checkChainCrypt s = none ↔
      s.chainValid = true ∧ s.latch.srcLen.toNat % 16 = 0 ∧ s.latch.srcLen.toNat ≤ s.latch.dstLen.toNat ∧
      outOfRange s.latch.srcAddr s.latch.srcLen.toNat = false ∧ outOfRange s.latch.dstAddr s.latch.srcLen.toNat = false ∧
      partialOverlap s.latch.srcAddr.toNat s.latch.dstAddr.toNat s.latch.srcLen.toNat = false := by
  simp [checkChainCrypt, firstFailed_eq_none]

/-- Validation ends the command with the report, finds a side-effect buffer, or hands over to the work. -/
theorem validated_cases (check : Option Report) (buffers : List (Nat × Nat)) (s : State) (work : Answer) :
    (∃ r, check = some r ∧ validated check buffers s work = .next (raiseError r s)) ∨
    (check = none ∧ (∃ b ∈ buffers, hasSideEffects s.setup.platform b.1 b.2 = true) ∧
      validated check buffers s work = .fault .sideEffectBuffer) ∨
    (check = none ∧ (∀ b ∈ buffers, hasSideEffects s.setup.platform b.1 b.2 = false) ∧ validated check buffers s work = work) := by
  cases check with
  | some r => exact .inl ⟨r, rfl, rfl⟩
  | none =>
    refine .inr ?_
    by_cases h : buffers.any (fun b => hasSideEffects s.setup.platform b.1 b.2) = true
    · exact .inl ⟨rfl, by simpa using h, by simp [validated, h]⟩
    · refine .inr ⟨rfl, ?_, by simp [validated, h]⟩
      intro b hb
      by_contra hc
      exact h (List.any_eq_true.mpr ⟨b, hb, by simpa using hc⟩)

/-! ### The work phase -/

@[simp] theorem runAccesses_zero (access : State → Work) (s : State) : runAccesses access 0 s = .going s := rfl

theorem runAccesses_succ_going {access : State → Work} {s s' : State} (n : Nat) (h : access s = .going s') :
    runAccesses access (n + 1) s = runAccesses access n s' := by simp [runAccesses, h]

theorem runAccesses_succ_ended {access : State → Work} {s s' : State} (n : Nat) (h : access s = .ended s') :
    runAccesses access (n + 1) s = .ended s' := by simp [runAccesses, h]

theorem runAccesses_succ_stuck {access : State → Work} {s : State} {f : Fault} (n : Nat) (h : access s = .stuck f) :
    runAccesses access (n + 1) s = .stuck f := by simp [runAccesses, h]

/-- Work in two pieces is work in one piece. -/
theorem runAccesses_add (access : State → Work) (m n : Nat) (s : State) :
    runAccesses access (m + n) s =
      match runAccesses access m s with
      | .going s' => runAccesses access n s'
      | .ended s' => .ended s'
      | .stuck f => .stuck f := by
  induction m generalizing s with
  | zero => simp
  | succ m ih =>
    rw [Nat.add_right_comm]
    cases h : access s with
    | going s' => rw [runAccesses_succ_going _ h, runAccesses_succ_going _ h, ih]
    | ended s' => rw [runAccesses_succ_ended _ h, runAccesses_succ_ended _ h]
    | stuck f => rw [runAccesses_succ_stuck _ h, runAccesses_succ_stuck _ h]

/-- A property indexed by the accesses left that every access keeps while the command goes on: it holds at the end. -/
theorem runAccesses_going_induction {access : State → Work} {P : Nat → State → Prop}
    (keep : ∀ n s s', P (n + 1) s → access s = .going s' → P n s') :
    ∀ n s s', P n s → runAccesses access n s = .going s' → P 0 s' := by
  intro n
  induction n with
  | zero => intro s s' hP h; simp only [runAccesses_zero, Work.going.injEq] at h; exact h ▸ hP
  | succ n ih =>
    intro s s' hP h
    cases hb : access s with
    | going t => rw [runAccesses_succ_going _ hb] at h; exact ih t s' (keep n s t hP hb) h
    | ended t => rw [runAccesses_succ_ended _ hb] at h; cases h
    | stuck f => rw [runAccesses_succ_stuck _ hb] at h; cases h

/-- Where a run of accesses ends the command: at a state that still has the kept property, by one access. -/
theorem runAccesses_ended_induction {access : State → Work} {P : Nat → State → Prop}
    (keep : ∀ n s s', P (n + 1) s → access s = .going s' → P n s') :
    ∀ n s t, P n s → runAccesses access n s = .ended t → ∃ m s', P (m + 1) s' ∧ access s' = .ended t := by
  intro n
  induction n with
  | zero => intro s t _ h; cases h
  | succ n ih =>
    intro s t hP h
    cases hb : access s with
    | going u => rw [runAccesses_succ_going _ hb] at h; exact ih u t (keep n s u hP hb) h
    | ended u => rw [runAccesses_succ_ended _ hb] at h; cases h; exact ⟨n, s, hP, hb⟩
    | stuck f => rw [runAccesses_succ_stuck _ hb] at h; cases h

/-- Where a run of accesses has no step: at a state that still has the kept property, by one access. -/
theorem runAccesses_stuck_induction {access : State → Work} {P : Nat → State → Prop}
    (keep : ∀ n s s', P (n + 1) s → access s = .going s' → P n s') :
    ∀ n s f, P n s → runAccesses access n s = .stuck f → ∃ m s', P (m + 1) s' ∧ access s' = .stuck f := by
  intro n
  induction n with
  | zero => intro s f _ h; cases h
  | succ n ih =>
    intro s f hP h
    cases hb : access s with
    | going u => rw [runAccesses_succ_going _ hb] at h; exact ih u f (keep n s u hP hb) h
    | ended u => rw [runAccesses_succ_ended _ hb] at h; cases h
    | stuck g => rw [runAccesses_succ_stuck _ hb] at h; cases h; exact ⟨n, s, hP, hb⟩

/-- If every access of a run goes on, the run does. -/
theorem runAccesses_all_going {access : State → Work} {P : Nat → State → Prop}
    (goes : ∀ n s, P (n + 1) s → ∃ s', access s = .going s' ∧ P n s') :
    ∀ n s, P n s → ∃ s', runAccesses access n s = .going s' ∧ P 0 s' := by
  intro n
  induction n with
  | zero => intro s hP; exact ⟨s, rfl, hP⟩
  | succ n ih =>
    intro s hP
    obtain ⟨t, hb, hPt⟩ := goes n s hP
    rw [runAccesses_succ_going _ hb]
    exact ih t hPt

/-- What a turn of work answers. -/
theorem workFor_cases (access : State → Work) (commit : State → State) (budget remaining : Nat) (s : State) :
    (∃ s', runAccesses access (min budget remaining) s = .going s' ∧
      ((remaining < budget ∧ workFor access commit budget remaining s = .next (complete (commit s'))) ∨
       (budget ≤ remaining ∧ workFor access commit budget remaining s = .next s'))) ∨
    (∃ s', runAccesses access (min budget remaining) s = .ended s' ∧ workFor access commit budget remaining s = .next s') ∨
    (∃ f, runAccesses access (min budget remaining) s = .stuck f ∧ workFor access commit budget remaining s = .fault f) := by
  unfold workFor
  cases runAccesses access (min budget remaining) s with
  | going s' =>
    refine .inl ⟨s', rfl, ?_⟩
    by_cases h : remaining < budget
    · exact .inl ⟨h, by simp [h]⟩
    · exact .inr ⟨by omega, by simp [h]⟩
  | ended s' => exact .inr (.inl ⟨s', rfl, rfl⟩)
  | stuck f => exact .inr (.inr ⟨f, rfl, rfl⟩)

/-- Work that is left to run to its end. -/
theorem workFor_whole (access : State → Work) (commit : State → State) (remaining : Nat) (s : State) :
    workFor access commit (remaining + 1) remaining s =
      match runAccesses access remaining s with
      | .going s' => .next (complete (commit s'))
      | .ended s' => .next s'
      | .stuck f => .fault f := by
  rw [workFor, Nat.min_eq_right (Nat.le_succ _)]
  cases runAccesses access remaining s <;> simp

/-- What the read of a source byte does (R64, R78, R208). -/
theorem readAccess_cases (lose : State → State) (s : State) :
    let src := s.latch.srcAddr.toNat + s.idx.toNat
    (memRead s src = .busError ∧
      readAccess lose s = .ended (raiseError ⟨.busError, .source, BitVec.ofNat 32 src⟩ (lose s))) ∨
    (memRead s src = .noAnswer ∧ readAccess lose s = .stuck .busNoAnswer) ∨
    ∃ b, memRead s src = .data b ∧ readAccess lose s = .going { s with held := some b } := by
  intro src
  cases h : memRead s src with
  | busError => left; exact ⟨rfl, by simp only [src] at h; simp [readAccess, h, src]⟩
  | noAnswer => right; left; exact ⟨rfl, by simp only [src] at h; simp [readAccess, h]⟩
  | data b => right; right; exact ⟨b, rfl, by simp only [src] at h; simp [readAccess, h]⟩

/-- The state before the destination byte is written: STATUS.NX and the draws of the byte's extractions are in. -/
def afterTransform (dir : Dir) (c : Chaotic) (s : State) (b : Byte) : State :=
  { s with nx := (transform s.setup dir ⟨c, s.nx, s.draws⟩ b).2.nx, draws := (transform s.setup dir ⟨c, s.nx, s.draws⟩ b).2.draws }

/-- What the write of a destination byte does (R64, R151, R208). -/
theorem writeAccess_cases (dir : Dir) (c : Chaotic) (put : Chaotic → State → State) (lose : State → State) (b : Byte) (s : State) :
    let dst := s.latch.dstAddr.toNat + s.idx.toNat
    let r := transform s.setup dir ⟨c, s.nx, s.draws⟩ b
    let s1 := afterTransform dir c s b
    (memWrite s1 dst r.1 = .busError ∧
      writeAccess dir c put lose b s = .ended (raiseError ⟨.busError, .destination, BitVec.ofNat 32 dst⟩ (lose s1))) ∨
    (memWrite s1 dst r.1 = .noAnswer ∧ writeAccess dir c put lose b s = .stuck .busNoAnswer) ∨
    ∃ m, memWrite s1 dst r.1 = .data m ∧
      writeAccess dir c put lose b s = .going (put r.2.chaos { s1 with mem := m, held := none, idx := s.idx + 1 }) := by
  intro dst r s1
  cases hw : memWrite s1 dst r.1 with
  | busError =>
    left
    refine ⟨rfl, ?_⟩
    simp only [dst, s1, r, afterTransform] at hw
    simp [writeAccess, hw, dst, s1, afterTransform]
  | noAnswer =>
    right; left
    refine ⟨rfl, ?_⟩
    simp only [dst, s1, r, afterTransform] at hw
    simp [writeAccess, hw]
  | data m =>
    right; right
    refine ⟨m, rfl, ?_⟩
    simp only [dst, s1, r, afterTransform] at hw
    simp [writeAccess, hw, s1, r, afterTransform]

theorem dataAccess_read {dir : Dir} {c : Chaotic} {put : Chaotic → State → State} {lose : State → State} {s : State}
    (h : s.held = none) : dataAccess dir c put lose s = readAccess lose s := by simp [dataAccess, h]

theorem dataAccess_write {dir : Dir} {c : Chaotic} {put : Chaotic → State → State} {lose : State → State} {s : State} {b : Byte}
    (h : s.held = some b) : dataAccess dir c put lose s = writeAccess dir c put lose b s := by simp [dataAccess, h]

/-- What one byte of KEY_LOAD does (R64, R110, R208). -/
theorem keyByte_cases (s : State) :
    let a := s.latch.keyAddr.toNat + s.idx.toNat
    (memRead s a = .busError ∧ keyByte s = .ended (raiseError ⟨.busError, .key, BitVec.ofNat 32 a⟩ s)) ∨
    (memRead s a = .noAnswer ∧ keyByte s = .stuck .busNoAnswer) ∨
    ∃ b, memRead s a = .data b ∧
      keyByte s = .going { s with kb := s.kb.setIfInBounds s.idx.toNat b, idx := s.idx + 1 } := by
  intro a
  cases h : memRead s a with
  | busError => left; exact ⟨rfl, by simp only [a] at h; simp [keyByte, h, a]⟩
  | noAnswer => right; left; exact ⟨rfl, by simp only [a] at h; simp [keyByte, h]⟩
  | data b => right; right; exact ⟨b, rfl, by simp only [a] at h; simp [keyByte, h]⟩

/-! ### Each command as its shared operation -/

@[simp] theorem exec_nop (s : State) : exec .nop s = .next (complete s) := rfl
@[simp] theorem exec_clear (s : State) : exec .clear s = .next (complete (clearKeyAndChain s)) := rfl
theorem exec_keyLoad (s : State) : exec .keyLoad s = keyLoadFor (18 - s.idx.toNat + 1) s := rfl
theorem exec_blockEnc (s : State) : exec .blockEnc s = blockFor .enc (accessesLeft 16 s + 1) s := rfl
theorem exec_blockDec (s : State) : exec .blockDec s = blockFor .dec (accessesLeft 16 s + 1) s := rfl
theorem exec_chainCrypt (s : State) : exec .chainCrypt s = chainCryptFor (accessesLeft s.latch.srcLen.toNat s + 1) s := rfl
theorem exec_chainInitEnc (s : State) : exec .chainInitEnc s = chainInit .enc s := rfl
theorem exec_chainInitDec (s : State) : exec .chainInitDec s = chainInit .dec s := rfl
@[simp] theorem exec_illegalOpc08 (b : BitVec 3) (s : State) : exec (.illegalOpc08 b) s = .next (raiseIllegal s) := rfl
@[simp] theorem exec_illegalOpc10 (b : BitVec 4) (s : State) : exec (.illegalOpc10 b) s = .next (raiseIllegal s) := rfl
@[simp] theorem exec_illegalOpc20 (b : BitVec 5) (s : State) : exec (.illegalOpc20 b) s = .next (raiseIllegal s) := rfl
@[simp] theorem exec_illegalOpc40 (b : BitVec 6) (s : State) : exec (.illegalOpc40 b) s = .next (raiseIllegal s) := rfl
@[simp] theorem exec_illegalOpc80 (b : BitVec 7) (s : State) : exec (.illegalOpc80 b) s = .next (raiseIllegal s) := rfl
@[simp] theorem exec_illegalRsv (w : Word) (s : State) : exec (.illegalRsv w) s = .next (raiseIllegal s) := rfl

/-- A chaining instance's construction: NO_KEY without a key, otherwise the fresh chain (R170, R171). -/
theorem chainInit_cases (dir : Dir) (s : State) :
    (s.keyValid = false ∧ chainInit dir s = .next (raiseError ⟨.noKey, .none, 0⟩ s)) ∨
    (s.keyValid = true ∧ chainInit dir s =
      .next (complete { s with cs := keySchedule s.setup s.key, chainDir := dir, cycles := 0, chainValid := true })) := by
  cases h : s.keyValid <;> simp [chainInit, checkChainInit, firstFailed_cons, firstFailed_nil, h]

/-! ### The datapath -/

@[simp] theorem cycles_zero (c : Setup) (g : Gen) : cycles c g 0 = g := rfl

theorem cycles_succ (c : Setup) (g : Gen) (k : Nat) : cycles c g (k + 1) = updateCycle c (cycles c g k) := rfl

/-- A cycle after `k` cycles is `k` cycles after a cycle. -/
theorem cycles_succ_left (c : Setup) (g : Gen) (k : Nat) : cycles c g (k + 1) = cycles c (updateCycle c g) k := by
  induction k with
  | zero => rfl
  | succ k ih => rw [cycles_succ, ih]; rfl

theorem cycles_add (c : Setup) (g : Gen) (m n : Nat) : cycles c g (m + n) = cycles c (cycles c g m) n := by
  induction n with
  | zero => rfl
  | succ n ih => rw [← Nat.add_assoc, cycles_succ, ih]; rfl

@[simp] theorem transform_fst (c : Setup) (dir : Dir) (g : Gen) (b : Byte) : (transform c dir g b).1 = combine dir b (digit c g) := rfl

@[simp] theorem transform_snd (c : Setup) (dir : Dir) (g : Gen) (b : Byte) : (transform c dir g b).2 = updateCycle c g := rfl

theorem updateCycle_chaos (c : Setup) (g : Gen) :
    (updateCycle c g).chaos = cascade c.numerics g.chaos (extractAll c g).1 := rfl

end Sys2Proof.Machine
end

