-- ==== Sys2Proof/Laws/HostForms.lean ====
section
/-! SUPPORT. What the host's forms can do: an event performed is an event that happens, a register read always succeeds, and WAIT ends
only when STATUS.BUSY has read 0 (spec 30_encoding.md R86). -/

namespace Sys2Proof.Machine

@[simp] theorem perform_eq (e : Event) (s : State) : perform e s = happen e s := rfl

/-- Every register stands at an aligned offset of its own (R29). -/
theorem properAccess_offsetOf (r : Reg) : properAccess .w32 (offsetOf r) = true := by
  rcases r with _ | _ | _ | _ | _ | _ | _ | _ | _ | _ | _ | h | ⟨n, h⟩ | ⟨n, h⟩ | _ <;>
    first
    | decide
    | (cases h <;> first | decide | (revert n; decide))

/-- A register read by name answers, names its value and changes only the reply and the draws (R70, R86). -/
theorem runRead_eq (reg : Reg) (name : String) (r : HostRun) :
    runRead reg name r = .next
      { machine :=
          { r.machine with
            replies := r.machine.replies ++ [.reg (offsetOf reg) (readOffset r.machine (offsetOf reg)).1],
            draws := (readOffset r.machine (offsetOf reg)).2 },
        reads := ⟨reg, name, (readOffset r.machine (offsetOf reg)).1⟩ :: r.reads, passed := r.passed } := by
  simp [runRead, happen, regRead, properAccess_offsetOf, HostRun.onMachine]

theorem readOffset_status (s : State) : readOffset s (offsetOf .status) = (statusWord s, s.draws) := by
  simp [readOffset, show regAt (offsetOf .status) = some .status by decide, isMirror, regValue]

theorem statusWord_busy (s : State) : (statusWord s).getLsbD 0 = s.busy := by
  unfold statusWord
  rw [BitVec.getLsbD_append]
  cases s.busy <;> rfl

/-- An access that ends a command leaves the engine idle (R204). -/
theorem dataAccess_ended_idle {dir : Dir} {c : Chaotic} {put : Chaotic → State → State} {lose : State → State} {s t : State}
    (h : dataAccess dir c put lose s = .ended t) : t.busy = false := by
  cases hh : s.held with
  | none =>
    rw [dataAccess_read hh] at h
    obtain ⟨-, e⟩ | ⟨-, e⟩ | ⟨b, -, e⟩ := readAccess_cases lose s <;> rw [e] at h <;> cases h
    rfl
  | some b =>
    rw [dataAccess_write hh] at h
    obtain ⟨-, e⟩ | ⟨-, e⟩ | ⟨m, -, e⟩ := writeAccess_cases dir c put lose b s <;> rw [e] at h <;> cases h
    rfl

theorem keyByte_ended_idle {s t : State} (h : keyByte s = .ended t) : t.busy = false := by
  obtain ⟨-, e⟩ | ⟨-, e⟩ | ⟨b, -, e⟩ := keyByte_cases s <;> rw [e] at h <;> cases h
  rfl

/-- Work left to run to its end leaves the engine idle (R203, R204). -/
theorem workFor_whole_idle {access : State → Work} {commit : State → State} {n : Nat} {s t : State}
    (ends : ∀ u v, access u = .ended v → v.busy = false) (h : workFor access commit (n + 1) n s = .next t) : t.busy = false := by
  rw [workFor_whole] at h
  cases hr : runAccesses access n s with
  | going u => rw [hr] at h; cases h; rfl
  | ended u =>
    rw [hr] at h
    cases h
    obtain ⟨-, v, -, hv⟩ := runAccesses_ended_induction (P := fun _ _ => True) (fun _ _ _ _ _ => trivial) n s t trivial hr
    exact ends v t hv
  | stuck f => rw [hr] at h; cases h

theorem validated_idle {check : Option Report} {buffers : List (Nat × Nat)} {s t : State} {work : Answer}
    (hw : work = .next t → t.busy = false) (h : validated check buffers s work = .next t) : t.busy = false := by
  obtain ⟨r, -, e⟩ | ⟨-, -, e⟩ | ⟨-, -, e⟩ := validated_cases check buffers s work <;> rw [e] at h
  · cases h; rfl
  · cases h
  · exact hw h

theorem chainInit_idle {d : Dir} {s t : State} (h : chainInit d s = .next t) : t.busy = false := by
  obtain ⟨-, e⟩ | ⟨-, e⟩ := chainInit_cases d s <;> rw [e] at h <;> cases h <;> rfl

/-- A command that has a next state has ended there (R203, R204). -/
theorem exec_idle {i : Instr} {s t : State} (h : exec i s = .next t) : t.busy = false := by
  cases i with
  | nop => cases h; rfl
  | keyLoad => exact validated_idle (workFor_whole_idle fun _ _ => keyByte_ended_idle) h
  | blockEnc => exact validated_idle (workFor_whole_idle fun _ _ => dataAccess_ended_idle) h
  | blockDec => exact validated_idle (workFor_whole_idle fun _ _ => dataAccess_ended_idle) h
  | chainInitEnc => exact chainInit_idle h
  | chainInitDec => exact chainInit_idle h
  | chainCrypt => exact validated_idle (workFor_whole_idle fun _ _ => dataAccess_ended_idle) h
  | clear => cases h; rfl
  | illegalOpc08 _ => cases h; rfl
  | illegalOpc10 _ => cases h; rfl
  | illegalOpc20 _ => cases h; rfl
  | illegalOpc40 _ => cases h; rfl
  | illegalOpc80 _ => cases h; rfl
  | illegalRsv _ => cases h; rfl

theorem engineAlone_idle {s t : State} (h : engineAlone s = .next t) : t.busy = false := by
  unfold engineAlone at h
  cases hb : s.busy with
  | true => rw [if_pos hb] at h; exact exec_idle h
  | false => simp only [hb, Bool.false_eq_true, if_false, Host.Outcome.next.injEq] at h; exact h ▸ hb

/-- A poll of STATUS sees BUSY as it is (R33). -/
theorem poll_sees_busy {name : String} {r r' : HostRun} (h : runRead .status name r = .next r') :
    r'.sawBusy = r.machine.busy ∧ r'.machine.busy = r.machine.busy := by
  rw [runRead_eq, readOffset_status] at h
  cases h
  exact ⟨statusWord_busy r.machine, rfl⟩

/-- WAIT ends at a poll that reads BUSY = 0, with the engine idle (R86). -/
theorem runWait_ends {between : List (List Event)} {r r' : HostRun} (h : runWait between r = .next r') :
    r'.sawBusy = false ∧ r'.machine.busy = false := by
  induction between generalizing r with
  | nil =>
    unfold runWait at h
    cases ha : engineAlone r.machine with
    | next t =>
      rw [ha] at h
      obtain ⟨h1, h2⟩ := poll_sees_busy h
      exact ⟨h1.trans (engineAlone_idle ha), h2.trans (engineAlone_idle ha)⟩
    | fault f => rw [ha] at h; cases h
    | refused f => rw [ha] at h; cases h
  | cons es rest ih =>
    unfold runWait at h
    cases hp : performAll es r.machine with
    | next t =>
      rw [hp] at h
      cases hr : runRead .status "s" { r with machine := t } with
      | next u =>
        simp only [hr] at h
        obtain ⟨h1, h2⟩ := poll_sees_busy hr
        cases hs : u.sawBusy with
        | true => rw [hs, if_pos rfl] at h; exact ih h
        | false =>
          simp only [hs, Bool.false_eq_true, if_false, Host.Outcome.next.injEq] at h
          subst h
          exact ⟨hs, h2.trans (h1.symm.trans hs)⟩
      | fault f => simp only [hr] at h; cases h
      | refused f => simp only [hr] at h; cases h
    | fault f => rw [hp] at h; cases h
    | refused f => rw [hp] at h; cases h

end Sys2Proof.Machine
end

