-- ==== Sys2Proof/Laws/PerInstr.lean ====
section
/-! SUPPORT. What holds of every instruction as syntax, one lemma per constructor: an instruction's word matches its own row of
spec/opcode_table.json (30_encoding.md R82, R83). -/

namespace Sys2Proof.Laws

/-- The `mask` and `match` numbers of an instruction's row in spec/opcode_table.json. -/
def rowOf : Instr → Word × Word
  | .nop => (0xFFFFFFFF#32, 0x00000000#32)
  | .keyLoad => (0xFFFFFFFF#32, 0x00000001#32)
  | .blockEnc => (0xFFFFFFFF#32, 0x00000002#32)
  | .blockDec => (0xFFFFFFFF#32, 0x00000003#32)
  | .chainInitEnc => (0xFFFFFFFF#32, 0x00000004#32)
  | .chainInitDec => (0xFFFFFFFF#32, 0x00000005#32)
  | .chainCrypt => (0xFFFFFFFF#32, 0x00000006#32)
  | .clear => (0xFFFFFFFF#32, 0x00000007#32)
  | .illegalOpc08 _ => (0xFFFFFFF8#32, 0x00000008#32)
  | .illegalOpc10 _ => (0xFFFFFFF0#32, 0x00000010#32)
  | .illegalOpc20 _ => (0xFFFFFFE0#32, 0x00000020#32)
  | .illegalOpc40 _ => (0xFFFFFFC0#32, 0x00000040#32)
  | .illegalOpc80 _ => (0xFFFFFF80#32, 0x00000080#32)
  | .illegalRsv _ => (0x00000000#32, 0x00000000#32)

/-- The word of a well-formed instruction matches its row, and only the catch-all row's words have RSV ≠ 0. -/
def EncodesItsRow.Statement (i : Instr) : Prop :=
  i.wellFormed = true → encode i &&& (rowOf i).1 = (rowOf i).2 ∧ (rsvOf (encode i) ≠ 0 ↔ (rowOf i).1 = 0)

theorem EncodesItsRow.nop : EncodesItsRow.Statement .nop := by intro _; decide
theorem EncodesItsRow.keyLoad : EncodesItsRow.Statement .keyLoad := by intro _; decide
theorem EncodesItsRow.blockEnc : EncodesItsRow.Statement .blockEnc := by intro _; decide
theorem EncodesItsRow.blockDec : EncodesItsRow.Statement .blockDec := by intro _; decide
theorem EncodesItsRow.chainInitEnc : EncodesItsRow.Statement .chainInitEnc := by intro _; decide
theorem EncodesItsRow.chainInitDec : EncodesItsRow.Statement .chainInitDec := by intro _; decide
theorem EncodesItsRow.chainCrypt : EncodesItsRow.Statement .chainCrypt := by intro _; decide
theorem EncodesItsRow.clear : EncodesItsRow.Statement .clear := by intro _; decide
theorem EncodesItsRow.illegalOpc08 (low : BitVec 3) : EncodesItsRow.Statement (.illegalOpc08 low) := by
  intro _; revert low; decide
theorem EncodesItsRow.illegalOpc10 (low : BitVec 4) : EncodesItsRow.Statement (.illegalOpc10 low) := by
  intro _; revert low; decide
theorem EncodesItsRow.illegalOpc20 (low : BitVec 5) : EncodesItsRow.Statement (.illegalOpc20 low) := by
  intro _; revert low; decide
theorem EncodesItsRow.illegalOpc40 (low : BitVec 6) : EncodesItsRow.Statement (.illegalOpc40 low) := by
  intro _; revert low; decide
theorem EncodesItsRow.illegalOpc80 (low : BitVec 7) : EncodesItsRow.Statement (.illegalOpc80 low) := by
  intro _; revert low; decide
theorem EncodesItsRow.illegalRsv (w : Word) : EncodesItsRow.Statement (.illegalRsv w) := by
  intro h
  have hw : rsvOf w ≠ 0 := by simpa [Instr.wellFormed] using h
  exact ⟨by simp [encode, rowOf], by simpa [encode, rowOf] using hw⟩

end Sys2Proof.Laws
end

