-- ==== Sys2Proof/Laws/Work.lean ====
section
/-! SUPPORT. The byte loops as a whole: what any number of bytes of a single-block command, of CHAIN_CRYPT and of KEY_LOAD leave when
the bus answers them (spec 20_memory.md R64, R65; 42_block_cipher.md R152; 43_chaining_mode.md R175; 40_key_schedule.md R110). -/

namespace Sys2Proof.Machine

open Sys2Proof.Safety

/-- The transform's byte is the byte of R151. -/
theorem combine_eq_outByte (dir : Dir) (b : Byte) (d : Nat) : combine dir b d = outByte dir b d := by
  cases dir with
  | enc => apply BitVec.eq_of_toNat_eq; simp [combine, outByte, BitVec.toNat_add]
  | dec =>
    apply BitVec.eq_of_toNat_eq
    have := b.isLt
    simp only [combine, outByte, BitVec.toNat_sub, BitVec.toNat_ofNat, BitVec.toNat_ofInt]
    omega

/-- With buffers that do not overlap partially, source byte `k` is not among the first `k` destination bytes (R65, R66). -/
theorem source_unwritten {s d n k : Nat} (h : partialOverlap s d n = false) (hk : k < n) : inBuffer (s + k) d k = false := by
  rw [partialOverlap_eq_false] at h
  simp only [inBuffer, decide_eq_false_iff_not, not_and, not_lt]
  by_cases e : s = d
  · omega
  · have := h (by omega) e
    omega

/-- A read that is answered. -/
theorem readAccess_going {lose : State → State} {s : State}
    (hr : inRanges s.setup.platform.busErrRead (s.latch.srcAddr.toNat + s.idx.toNat) = false ∧
      holdsMemory s.setup.platform (s.latch.srcAddr.toNat + s.idx.toNat) = true) :
    readAccess lose s = .going { s with held := some (s.mem.read (s.latch.srcAddr.toNat + s.idx.toNat)) } := by
  simp [readAccess, memRead, hr]

/-- A read that gets a bus error. -/
theorem readAccess_error {lose : State → State} {s : State}
    (hr : inRanges s.setup.platform.busErrRead (s.latch.srcAddr.toNat + s.idx.toNat) = true) :
    readAccess lose s =
      .ended (raiseError ⟨.busError, .source, BitVec.ofNat 32 (s.latch.srcAddr.toNat + s.idx.toNat)⟩ (lose s)) := by
  simp [readAccess, memRead, hr]

/-- A write that is performed. -/
theorem writeAccess_going {dir : Dir} {c : Chaotic} {put : Chaotic → State → State} {lose : State → State} {b : Byte} {s : State}
    (hw : inRanges s.setup.platform.busErrWrite (s.latch.dstAddr.toNat + s.idx.toNat) = false ∧
      holdsMemory s.setup.platform (s.latch.dstAddr.toNat + s.idx.toNat) = true) :
    writeAccess dir c put lose b s = .going (put (updateCycle s.setup ⟨c, s.nx, s.draws⟩).chaos
      { s with
        nx := (updateCycle s.setup ⟨c, s.nx, s.draws⟩).nx, draws := (updateCycle s.setup ⟨c, s.nx, s.draws⟩).draws,
        mem := s.mem.write (s.latch.dstAddr.toNat + s.idx.toNat) (combine dir b (digit s.setup ⟨c, s.nx, s.draws⟩)),
        held := none, idx := s.idx + 1 }) := by
  simp [writeAccess, memWrite, hw]

/-- A write that gets a bus error. -/
theorem writeAccess_error {dir : Dir} {c : Chaotic} {put : Chaotic → State → State} {lose : State → State} {b : Byte} {s : State}
    (hw : inRanges s.setup.platform.busErrWrite (s.latch.dstAddr.toNat + s.idx.toNat) = true) :
    writeAccess dir c put lose b s =
      .ended (raiseError ⟨.busError, .destination, BitVec.ofNat 32 (s.latch.dstAddr.toNat + s.idx.toNat)⟩
        (lose { s with
          nx := (updateCycle s.setup ⟨c, s.nx, s.draws⟩).nx, draws := (updateCycle s.setup ⟨c, s.nx, s.draws⟩).draws })) := by
  simp [writeAccess, memWrite, hw]

/-- One byte of a single-block command: its read and its write. -/
theorem blockByte_going {dir : Dir} {s : State} {c : Chaotic} (hts : s.ts = some c) (hheld : s.held = none)
    (hr : inRanges s.setup.platform.busErrRead (s.latch.srcAddr.toNat + s.idx.toNat) = false ∧
      holdsMemory s.setup.platform (s.latch.srcAddr.toNat + s.idx.toNat) = true)
    (hw : inRanges s.setup.platform.busErrWrite (s.latch.dstAddr.toNat + s.idx.toNat) = false ∧
      holdsMemory s.setup.platform (s.latch.dstAddr.toNat + s.idx.toNat) = true) :
    runAccesses (blockAccess dir) 2 s = .going
      { s with
        nx := (updateCycle s.setup ⟨c, s.nx, s.draws⟩).nx, draws := (updateCycle s.setup ⟨c, s.nx, s.draws⟩).draws,
        mem := s.mem.write (s.latch.dstAddr.toNat + s.idx.toNat)
          (combine dir (s.mem.read (s.latch.srcAddr.toNat + s.idx.toNat)) (digit s.setup ⟨c, s.nx, s.draws⟩)),
        held := none, idx := s.idx + 1, ts := some (updateCycle s.setup ⟨c, s.nx, s.draws⟩).chaos } := by
  simp only [runAccesses, blockAccess]
  rw [dataAccess_read hheld, readAccess_going hr]
  simp only
  rw [dataAccess_write rfl, writeAccess_going (s := { s with held := some _ }) hw]
  simp [transient, hts]

/-- One byte of CHAIN_CRYPT: its read and its write. -/
theorem chainByte_going {s : State} (hheld : s.held = none)
    (hr : inRanges s.setup.platform.busErrRead (s.latch.srcAddr.toNat + s.idx.toNat) = false ∧
      holdsMemory s.setup.platform (s.latch.srcAddr.toNat + s.idx.toNat) = true)
    (hw : inRanges s.setup.platform.busErrWrite (s.latch.dstAddr.toNat + s.idx.toNat) = false ∧
      holdsMemory s.setup.platform (s.latch.dstAddr.toNat + s.idx.toNat) = true) :
    runAccesses chainAccess 2 s = .going
      { s with
        nx := (updateCycle s.setup ⟨s.cs, s.nx, s.draws⟩).nx, draws := (updateCycle s.setup ⟨s.cs, s.nx, s.draws⟩).draws,
        mem := s.mem.write (s.latch.dstAddr.toNat + s.idx.toNat)
          (combine s.chainDir (s.mem.read (s.latch.srcAddr.toNat + s.idx.toNat)) (digit s.setup ⟨s.cs, s.nx, s.draws⟩)),
        held := none, idx := s.idx + 1, cs := (updateCycle s.setup ⟨s.cs, s.nx, s.draws⟩).chaos, cycles := s.cycles + 1 } := by
  simp only [runAccesses, chainAccess]
  rw [dataAccess_read hheld, readAccess_going hr]
  simp only
  rw [dataAccess_write rfl, writeAccess_going (s := { s with held := some _ }) hw]

/-- Memory after the first `n` bytes of a data command: the destination bytes are combined source bytes, all else is as before. -/
abbrev Moved (dir : Dir) (s : State) (c : Chaotic) (n : Nat) (m : Memory) : Prop :=
  m.wf = true ∧ (∀ k, k < n → m.read (dst s + k) = outByte dir (s.mem.read (src s + k)) (digitAt s c k)) ∧
  ∀ a, inBuffer a (dst s) n = false → m.read a = s.mem.read a

theorem moved_zero (dir : Dir) (s : State) (c : Chaotic) (h : s.mem.wf = true) : Moved dir s c 0 s.mem :=
  ⟨h, fun _ hk => absurd hk (Nat.not_lt_zero _), fun _ _ => rfl⟩

/-- One more byte moved. -/
theorem moved_succ {dir : Dir} {s : State} {c : Chaotic} {n N : Nat} {m : Memory}
    (hov : partialOverlap (src s) (dst s) N = false) (hn : n < N) (h : Moved dir s c n m) :
    Moved dir s c (n + 1) (m.write (dst s + n) (combine dir (m.read (src s + n)) (digitAt s c n))) := by
  obtain ⟨hm, hb, hf⟩ := h
  have hsrc : m.read (src s + n) = s.mem.read (src s + n) := hf _ (source_unwritten hov hn)
  refine ⟨Memory.wf_write _ _ hm, fun k hk => ?_, fun a ha => ?_⟩
  · by_cases e : k = n
    · subst e; rw [Memory.read_write_same _ _ hm, hsrc, combine_eq_outByte]
    · rw [Memory.read_write_other _ _ (by omega)]; exact hb k (by omega)
  · simp only [inBuffer, decide_eq_false_iff_not, not_and, not_lt] at ha hf
    rw [Memory.read_write_other _ _ (by omega)]
    exact hf a (by omega)

/-- The first `n` bytes of a single-block command that starts from the transient state `c`. -/
theorem runAccesses_block {dir : Dir} {s : State} {c : Chaotic} {n N : Nat} (hts : s.ts = some c) (hidx : s.idx = 0) (hheld : s.held = none)
    (hwf : s.mem.wf = true) (hov : partialOverlap (src s) (dst s) N = false) (hA : DataAnswered s n) (hn : n ≤ N)
    (hN : N < 2 ^ 32) :
    ∃ m, Moved dir s c n m ∧ runAccesses (blockAccess dir) (2 * n) s = .going
      { s with
        mem := m, nx := (cycles s.setup (genOf c s) n).nx, draws := (cycles s.setup (genOf c s) n).draws,
        idx := BitVec.ofNat 32 n, held := none, ts := some (cycles s.setup (genOf c s) n).chaos } := by
  induction n with
  | zero =>
    refine ⟨s.mem, moved_zero _ _ _ hwf, ?_⟩
    rw [Nat.mul_zero, runAccesses_zero]
    cases s; simp_all [genOf]
  | succ n ih =>
    obtain ⟨m, hm, hrun⟩ := ih ⟨fun k hk => hA.1 k (by omega), fun k hk => hA.2 k (by omega)⟩ (by omega)
    have hi : (BitVec.ofNat 32 n).toNat = n := by simp only [BitVec.toNat_ofNat]; omega
    refine ⟨_, moved_succ hov (by omega) hm, ?_⟩
    rw [Nat.mul_succ, runAccesses_add, hrun]
    simp only
    rw [blockByte_going rfl rfl (by simp only [hi]; exact hA.1 n (by omega)) (by simp only [hi]; exact hA.2 n (by omega))]
    simp [hi, cycles_succ, digitAt, src, dst, BitVec.ofNat_add]

/-- The first `n` bytes of CHAIN_CRYPT. -/
theorem runAccesses_chain {s : State} {n N : Nat} (hidx : s.idx = 0) (hheld : s.held = none)
    (hwf : s.mem.wf = true) (hov : partialOverlap (src s) (dst s) N = false) (hA : DataAnswered s n) (hn : n ≤ N)
    (hN : N < 2 ^ 32) :
    ∃ m, Moved s.chainDir s s.cs n m ∧ runAccesses chainAccess (2 * n) s = .going
      { s with
        mem := m, nx := (cycles s.setup (genOf s.cs s) n).nx, draws := (cycles s.setup (genOf s.cs s) n).draws,
        idx := BitVec.ofNat 32 n, held := none, cs := (cycles s.setup (genOf s.cs s) n).chaos, cycles := s.cycles + BitVec.ofNat 64 n } := by
  induction n with
  | zero =>
    refine ⟨s.mem, moved_zero _ _ _ hwf, ?_⟩
    rw [Nat.mul_zero, runAccesses_zero]
    cases s; simp_all [genOf]
  | succ n ih =>
    obtain ⟨m, hm, hrun⟩ := ih ⟨fun k hk => hA.1 k (by omega), fun k hk => hA.2 k (by omega)⟩ (by omega)
    have hi : (BitVec.ofNat 32 n).toNat = n := by simp only [BitVec.toNat_ofNat]; omega
    refine ⟨_, moved_succ hov (by omega) hm, ?_⟩
    rw [Nat.mul_succ, runAccesses_add, hrun]
    simp only
    rw [chainByte_going rfl (by simp only [hi]; exact hA.1 n (by omega)) (by simp only [hi]; exact hA.2 n (by omega))]
    simp [hi, cycles_succ, digitAt, src, dst, BitVec.ofNat_add, BitVec.add_assoc]

/-- The first `n` bytes of KEY_LOAD. -/
theorem runAccesses_key {s : State} {n : Nat} (hidx : s.idx = 0) (hA : ReadsAnswered s.setup.platform (keyBase s) n) (hn : n ≤ 18) :
    ∃ kb : Vector Byte 18, (∀ (k : Nat) (h : k < 18), k < n → kb[k] = s.mem.read (keyBase s + k)) ∧
      runAccesses keyByte n s = .going { s with kb := kb, idx := BitVec.ofNat 32 n } := by
  induction n with
  | zero =>
    refine ⟨s.kb, fun _ _ h => absurd h (Nat.not_lt_zero _), ?_⟩
    rw [runAccesses_zero]
    cases s; simp_all
  | succ n ih =>
    obtain ⟨kb, hkb, hrun⟩ := ih (fun k hk => hA k (by omega)) (by omega)
    have hi : (BitVec.ofNat 32 n).toNat = n := by simp only [BitVec.toNat_ofNat]; omega
    refine ⟨kb.setIfInBounds n (s.mem.read (keyBase s + n)), fun k h hk => ?_, ?_⟩
    · rw [Vector.getElem_setIfInBounds]
      split
      · next e => rw [e]
      · exact hkb k h (by omega)
    · rw [runAccesses_add, hrun]
      have := hA n (by omega)
      simp only [keyBase] at this
      simp [runAccesses, keyByte, memRead, hi, this, keyBase, BitVec.ofNat_add]

end Sys2Proof.Machine
end

