-- ==== Sys2Proof/Tests/Slice0.lean ====
section
/-! SUPPORT. Own tests: ill-formed terms refused, command words written out from spec 30_encoding.md R82, vectors of
95_test_vectors.md one step each, and a witness for every statement that has hypotheses. -/

namespace Sys2Proof.Tests

-- One after another: many kernel evaluations waiting for one another hold a thread each, and the memory limit counts their stacks.
set_option Elab.async false

open Sys2Proof Sys2Proof.Machine Sys2Proof.Safety

/-! ### Well-formedness -/

theorem test_illegalRsv_without_rsv_is_ill_formed : (Instr.illegalRsv 0x00000000).wellFormed = false := by decide

theorem test_illegalRsv_of_a_command_is_ill_formed : (Instr.illegalRsv 0x000000FF).wellFormed = false := by decide

theorem test_illegalRsv_lowest_rsv_bit : (Instr.illegalRsv 0x00000100).wellFormed = true := by decide

/-! ### Decoding, each word written out as RSV (24 bits) and OPC (8 bits) of R82 -/

theorem test_decode_nop : decode (0#24 ++ 0b00000000#8) = .nop := by decide

theorem test_decode_keyLoad : decode (0#24 ++ 0b00000001#8) = .keyLoad := by decide

theorem test_decode_blockEnc : decode (0#24 ++ 0b00000010#8) = .blockEnc := by decide

theorem test_decode_blockDec : decode (0#24 ++ 0b00000011#8) = .blockDec := by decide

theorem test_decode_chainInitEnc : decode (0#24 ++ 0b00000100#8) = .chainInitEnc := by decide

theorem test_decode_chainInitDec : decode (0#24 ++ 0b00000101#8) = .chainInitDec := by decide

theorem test_decode_chainCrypt : decode (0#24 ++ 0b00000110#8) = .chainCrypt := by decide

theorem test_decode_clear : decode (0#24 ++ 0b00000111#8) = .clear := by decide

theorem test_decode_opc08 : decode (0#24 ++ 0b00001101#8) = .illegalOpc08 0b101 := by decide

theorem test_decode_opc10 : decode (0#24 ++ 0b00011001#8) = .illegalOpc10 0b1001 := by decide

theorem test_decode_opc20 : decode (0#24 ++ 0b00110001#8) = .illegalOpc20 0b10001 := by decide

theorem test_decode_opc40 : decode (0#24 ++ 0b01100001#8) = .illegalOpc40 0b100001 := by decide

theorem test_decode_opc80 : decode (0#24 ++ 0b11000001#8) = .illegalOpc80 0b1000001 := by decide

theorem test_decode_rsv : decode (1#24 ++ 0b00000110#8) = .illegalRsv 0x00000106 := by decide

/-! ### Small states -/

/-- CONF-Z of 95_test_vectors.md: TAP_HASH gives zero bytes for every message. -/
def confZ : Setup := { resetSetup with tapHash := some ⟨[], ⟨0, 0, 0, 0, []⟩⟩, tapWordOrder := some .be, cvtOor := some 0 }

/-- A configuration whose bus fails on reads of the addresses `r` and on writes of the addresses `w`. -/
def confErr (r w : List Range) : Setup :=
  { confZ with platform := { resetPlatform with busErrRead := r, busErrWrite := w } }

/-- A configuration with memory at the addresses `m` alone. -/
def confMap (m : List Range) : Setup := { confZ with platform := { resetPlatform with memMap := m } }

/-- A configuration whose host caches are not coherent. -/
def confCached : Setup := { confZ with platform := { resetPlatform with memCoherent := false } }

/-- Key K3. -/
def k3 : Vector Byte 18 := #v[1, 0, 0, 0, 0, 0, 2, 0, 0, 0, 0, 0, 0, 0, 0, 0, 0, 0]

/-- Latched operands: the key at 0x1000, and the given source and destination. -/
def operandsAt (keyLen srcAddr srcLen dstAddr dstLen : Word) : Operands :=
  { keyAddr := 0x1000, keyLen := keyLen, srcAddr := srcAddr, srcLen := srcLen, dstAddr := dstAddr, dstLen := dstLen }

/-- A just accepted command `w` on an engine that holds K3. -/
def withKey (w srcAddr srcLen dstAddr dstLen : Word) : State :=
  { State.reset with
    setup := confZ, key := k3, keyValid := true, busy := true, lCmd := w,
    latch := operandsAt 18 srcAddr srcLen dstAddr dstLen }

/-- The same with a live chain, fresh from K3. -/
def withChain (w srcAddr srcLen dstAddr dstLen : Word) : State :=
  { withKey w srcAddr srcLen dstAddr dstLen with chainValid := true, cs := keySchedule confZ k3 }

/-- The answer is a next state. -/
def isNext : Answer → Bool
  | .next _ => true
  | .fault _ => false
  | .refused _ => false

/-- The next state of an answer that has one. -/
def after : Answer → State
  | .next t => t
  | .fault _ => State.reset
  | .refused _ => State.reset

theorem answer_after {a : Answer} (h : isNext a = true) : a = .next (after a) := by
  cases a <;> simp_all [isNext, after]

/-- The bytes at an address. -/
def bytesAt (s : State) (a n : Nat) : List Byte := (List.range n).map fun k => s.mem.read (a + k)

/-! ### Vectors -/

/-- V-EXT: alpha = 1.005960213693701, bytes 0 to 3 of the conversion. -/
theorem test_extract :
    [0, 1, 2, 3].map (fun t => (extract confZ 0x3FF01869BCAE4410 t false 0).1) = [26, 154, 30, 214] := by decide +kernel

/-- V-EXT: a negative product, and the first one out of range. -/
theorem test_extract_edges :
    (extract confZ 0xBD1C25C268497682 1 false 0).1 = 255 ∧
    extract { confZ with cvtOor := some 0x44332211 } 0x40F6849B86A12B9B 2 false 0 = (0x33, true, 0) := by decide +kernel

/-- V-KS2: the positions and mix indices of K3. -/
theorem test_keySchedule :
    (keySchedule confZ k3).pos = ⟨0x3FF0000000000000, 0x4008000000000000, 0x403E000000000000⟩ ∧
    (keySchedule confZ k3).mix = ⟨0, 2, 1⟩ := by decide +kernel

/-- V-CYC: the positions after one cycle from K3. -/
theorem test_cycle :
    (updateCycle confZ ⟨keySchedule confZ k3, false, 0⟩).chaos.pos =
      ⟨0x3FF35C28F5C28F5C, 0x40075C28F5C28F5C, 0x403D87AE147AE148⟩ := by decide +kernel

/-- V-BLK1. -/
theorem test_blockEnc :
    bytesAt (after (exec .blockEnc (withKey 2 0x2000 16 0x3000 16))) 0x3000 16 =
      [0x00, 0x00, 0x55, 0xCF, 0x61, 0xB7, 0x5A, 0xD0, 0xA0, 0x19, 0x9C, 0xF9, 0xDD, 0x50, 0xEA, 0xB7] := by decide +kernel

/-- V-BLK3. -/
theorem test_blockDec :
    bytesAt (after (exec .blockDec (withKey 3 0x2000 16 0x3000 16))) 0x3000 16 =
      [0x00, 0x00, 0xAB, 0x31, 0x9F, 0x49, 0xA6, 0x30, 0x60, 0xE7, 0x64, 0x07, 0x23, 0xB0, 0x16, 0x49] := by decide +kernel

/-- V-DIG, K3: the chain goes on where the first block ended. -/
theorem test_chainCrypt :
    bytesAt (after (exec .chainCrypt (withChain 6 0x2000 32 0x3000 32))) 0x3010 4 = [292 - 256, 499 - 256, 488 - 256, 297 - 256] ∧
    (after (exec .chainCrypt (withChain 6 0x2000 32 0x3000 32))).cycles = 32 := by decide +kernel

/-- V-SRC3. -/
theorem test_short_destination :
    statusWord (after (exec .blockEnc (withKey 2 0x2000 16 0x3000 15))) = 0x00003206 ∧
    (after (exec .blockEnc (withKey 2 0x2000 16 0x3000 15))).errInfo = 15 := by decide +kernel

/-- V-SRC2. -/
theorem test_unaligned_input :
    statusWord (after (exec .chainCrypt (withChain 6 0x2000 17 0x3000 32))) = 0x0000230E := by decide +kernel

/-- V-KL1, row 4: the last key byte is the last byte of the space. -/
theorem test_keyLoad_at_the_top :
    statusWord (after (exec .keyLoad { withKey 1 0 0 0 0 with
      keyValid := false, latch := { zeroOperands with keyAddr := 0xFFFFFFEE, keyLen := 18 } })) = 0x00000006 := by decide +kernel

/-- V-KL1, row 5. -/
theorem test_keyLoad_past_the_top :
    statusWord (after (exec .keyLoad { withKey 1 0 0 0 0 with
      keyValid := false, latch := { zeroOperands with keyAddr := 0xFFFFFFEF, keyLen := 18 } })) = 0x00001902 := by decide +kernel

/-- R171: the direction reads as STATUS bit 4. -/
theorem test_chainInitDec : statusWord (after (exec .chainInitDec (withKey 5 0 0 0 0))) = 0x0000001E := by decide +kernel

/-- L3.3, s9. -/
theorem test_nop : statusWord (after (exec .nop (withChain 0 0 0 0 0))) = 0x0000000E := by decide +kernel

/-- L3.3, s10. -/
theorem test_clear : statusWord (after (exec .clear (withChain 7 0 0 0 0))) = 0x00000002 := by decide +kernel

/-- L3.3, s8 and e8. -/
theorem test_illegal_word :
    statusWord (after (exec (.illegalRsv 0x108) (withChain 0x108 0 0 0 0))) = 0x0000050E ∧
    (after (exec (.illegalRsv 0x108) (withChain 0x108 0 0 0 0))).errInfo = 0x108 := by decide +kernel

/-- L3.4: the NOP written while busy is dropped; STATUS then reads 0x46. -/
theorem test_overrun :
    statusWord (after (engineAlone (writeOffset 0x08 0 (withKey 2 0x2000 16 0x3000 16)))) = 0x00000046 := by decide +kernel

/-- How a host program ends from a state, with what happens before its forms: the values it read, newest first, and whether its checks
held; `none` if it has no end. -/
def programEnd (gaps : List (List Event)) (fs : List HostForm) (s : State) : Option (List Word × Bool) :=
  match runForms gaps fs (HostRun.start s) with
  | .next r => some (r.reads.map (·.value), r.passed)
  | .fault _ => none
  | .refused _ => none

/-- An idle engine that holds K3, its operand registers set for one block. -/
def idleWithKey : State := { State.reset with setup := confZ, key := k3, keyValid := true, ops := operandsAt 18 0x2000 16 0x3000 16 }

/-- R86: WAIT polls until BUSY reads 0, and then no more. -/
theorem test_wait :
    programEnd [] [.wait [[], [.engine 0], [.engine 1], [.engine 7]]] (withKey 0 0 0 0 0) = some ([0x6, 0x5, 0x5], true) ∧
    programEnd [] [.wait []] (withKey 0 0 0 0 0) = some ([0x6], true) := by decide +kernel

/-- L3.4: the NOP written after BLOCK_ENC finds the engine busy or not, and both end states are reached. -/
theorem test_both_ends :
    programEnd [] [.cmd .blockEnc, .cmd .nop, .wait []] idleWithKey = some ([0x46], true) ∧
    programEnd [[], [.engine 33]] [.cmd .blockEnc, .cmd .nop, .wait []] idleWithKey = some ([0x6], true) := by decide +kernel

/-- L3.3, s1: LOADKEYN with 17 bytes, and CHECK finds the error. -/
theorem test_loadKeyN_check :
    programEnd [] (formLoadKeyN 0x1000 17 [] ++ formCheck) State.reset = some ([0x1102, 0x1102], false) ∧
    programEnd [] (formLoadKey 0x1000 [] ++ formCheck) State.reset = some ([0x6, 0x6], true) := by decide +kernel

/-- R60, R86: MEM stores at the last address and is refused past it (log 34). -/
theorem test_mem_at_the_top :
    (after (runMem 0xFFFFFFFF [7] State.reset)).mem = [(0xFFFFFFFF, 7)] ∧
    runMem 0xFFFFFFFF [7, 8] State.reset = .refused .hostAccessOutsideMemory :=
  ⟨by decide +kernel, rfl⟩

/-- R67, R65: neighbours do not overlap, one shared byte does, the same buffer does not. -/
theorem test_overlap :
    partialOverlap 0x2000 0x2010 16 = false ∧ partialOverlap 0x2000 0x200F 16 = true ∧
    partialOverlap 0x2000 0x2000 16 = false := by decide

/-- The memory of the state after reset is in canonical form. -/
theorem test_reset_memory : State.reset.mem.wf = true := by decide

/-! ### Witnesses: states and operands that meet the hypotheses of a statement -/

/-- An engine in the middle of V-BLK1, with `k` accesses made. -/
def midBlock (k : Nat) : State := after (execFor k .blockEnc (withKey 2 0x2000 16 0x3000 16))

theorem witness_DecodeOfEncode :
    (Instr.illegalRsv 0x80000001).wellFormed = true ∧ (Instr.illegalOpc80 0x7F).wellFormed = true := by decide

theorem witness_DecodeFollowsOpcodeMap :
    rsvOf 0x00000100 ≠ 0 ∧ rsvOf 0x00000007 = 0 ∧ opcOf 0x00000007 = 0x07 ∧ rsvOf 0x00000008 = 0 ∧
    0x08 ≤ (opcOf 0x00000008).toNat ∧ 0x08 ≤ (opcOf 0x000000FF).toNat := by decide

/-- Every clause: no event and busy, no event and idle, an event (a turn of the engine while busy). -/
theorem witness_StepRunsTheDecodedCommand :
    Instr.blockEnc.wellFormed = true ∧
    (∃ s : State, decode s.lCmd = .blockEnc ∧ s.inputs = [] ∧ s.busy = true) ∧
    (∃ s : State, decode s.lCmd = .blockEnc ∧ s.inputs = [] ∧ s.busy = false) ∧
    (∃ s : State, decode s.lCmd = .blockEnc ∧ s.inputs = .engine 3 :: [.reset] ∧ s.busy = true) ∧
    ∀ (e : Event) (rest : List Event), ∃ s : State, decode s.lCmd = .blockEnc ∧ s.inputs = e :: rest :=
  ⟨rfl, ⟨withKey 2 0x2000 16 0x3000 16, by decide⟩, ⟨{ withKey 2 0x2000 16 0x3000 16 with busy := false }, by decide⟩,
    ⟨{ withKey 2 0x2000 16 0x3000 16 with inputs := [.engine 3, .reset] }, by decide⟩,
    fun e rest => ⟨{ withKey 2 0x2000 16 0x3000 16 with inputs := e :: rest }, show decode 2 = .blockEnc by decide, rfl⟩⟩

/-- A turn that leaves the engine busy, one that completes, one that has no step. -/
theorem witness_TurnsComposeToWholeCommand :
    ((withKey 2 0x2000 16 0x3000 16).busy = true ∧ isNext (execFor 5 .blockEnc (withKey 2 0x2000 16 0x3000 16)) = true ∧
      (midBlock 5).busy = true ∧ (midBlock 5).idx = 2 ∧ (midBlock 5).held = some 0) ∧
    (isNext (execFor 33 .blockEnc (withKey 2 0x2000 16 0x3000 16)) = true ∧ (midBlock 32).busy = true ∧ (midBlock 33).busy = false) ∧
    execFor 5 .blockEnc (withKey 2 0x80000000 16 0x3000 16) = .fault .sideEffectBuffer :=
  ⟨by decide +kernel, by decide +kernel, rfl⟩

/-- A command whose checks pass, at the top of the space and one source byte short of the register window; one whose reads get bus
errors; one that fails a check with its buffers in the window; one whose last source byte is the first of the window; a key, a source
and a destination byte where no memory stands. -/
theorem witness_AcceptedCommandCompletes :
    (∃ s : State, s.busy = true ∧ s.inputs = [] ∧ (demand (fetch s) s).check = none ∧ PlatformServes (fetch s) s ∧
      src s + 16 = 0x80000000 ∧ dst s + 16 = 2 ^ 32) ∧
    (∃ s : State, s.busy = true ∧ s.inputs = [] ∧ fetch s = .keyLoad ∧ (demand (fetch s) s).check = none ∧ PlatformServes (fetch s) s ∧
      inRanges s.setup.platform.busErrRead (keyBase s) = true) ∧
    (∃ s : State, s.busy = true ∧ s.inputs = [] ∧ PlatformServes (fetch s) s ∧ src s = 0x80000000 ∧ s.chainValid = false) ∧
    (∃ s : State, s.busy = true ∧ s.inputs = [] ∧ (demand (fetch s) s).check = none ∧ (src s, 16) ∈ (demand (fetch s) s).reads ∧
      sideEffectAt s.setup.platform (src s + 15) = true ∧ sideEffectAt s.setup.platform (src s + 14) = false) ∧
    (∃ s : State, s.busy = true ∧ s.inputs = [] ∧ fetch s = .keyLoad ∧ s.idx = 0 ∧ KeyPasses s ∧
      ReadsAnswered s.setup.platform (keyBase s) 17 ∧ ReadUnanswered s.setup.platform (keyBase s + 17)) ∧
    (∃ s : State, s.busy = true ∧ s.inputs = [] ∧ fetch s = blockInstr .dec ∧ Fresh s ∧ s.mem.wf = true ∧ BlockPasses s ∧ HangsAt s 0) ∧
    (∃ s : State, s.busy = true ∧ s.inputs = [] ∧ fetch s = .chainCrypt ∧ Fresh s ∧ s.mem.wf = true ∧ ChainPasses s 32 ∧ HangsAt s 31) :=
  ⟨⟨withKey 2 0x7FFFFFF0 16 0xFFFFFFF0 16, by decide +kernel⟩,
    ⟨{ withKey 1 0 0 0 0 with setup := confErr [⟨0x1000, 18⟩] [] }, by decide +kernel⟩,
    ⟨withKey 6 0x80000000 16 0x80000000 16, rfl, rfl, fun h => absurd h (by decide), rfl, rfl⟩,
    ⟨withKey 2 0x7FFFFFF1 16 0x3000 16, by decide +kernel⟩,
    ⟨{ withKey 1 0 0 0 0 with setup := confMap [⟨0x1000, 17⟩] }, by decide +kernel⟩,
    ⟨{ withKey 3 0x2000 16 0x3000 16 with setup := confMap [⟨0x3000, 16⟩] }, by decide +kernel⟩,
    { withChain 6 0x2000 32 0x3000 32 with setup := confMap [⟨0x2000, 32⟩, ⟨0x3000, 31⟩] }, by decide +kernel⟩

theorem witness_StepKeepsInv : ∃ s t : State, MachineInv s ∧ s.busy = true ∧ step s = .next t :=
  ⟨accept 7 State.reset, _,
    by constructor <;> simp [accept, State.reset, Memory.wf, Memory.wfFrom, reportable], rfl, rfl⟩

theorem witness_StepKeepsChainFollowsKey :
    ∃ s t : State, s.setup.cvtOor.isSome = true ∧ s.chainValid = true ∧ ChainFollowsKey s ∧ step s = .next t :=
  ⟨withChain 0 0 0 0 0, _, rfl, rfl, fun _ => ⟨0, rfl, rfl⟩, rfl⟩

theorem witness_StepKeepsConfiguration : ∃ t : State, step State.reset = .next t := ⟨_, rfl⟩

theorem witness_ChainInitDerivesFromKey :
    (withKey 4 0 0 0 0).keyValid = true ∧ State.reset.keyValid = false := by decide

theorem witness_IllegalWordEndsWithIllegalCommand :
    isIllegal (.illegalOpc08 0) = true ∧ isIllegal (.illegalRsv 0x100) = true := by decide

/-- The last key byte is the last byte of the space. -/
def topKey : State := { withKey 1 0 0 0 0 with latch := { zeroOperands with keyAddr := 0xFFFFFFEE, keyLen := 18 } }

theorem witness_KeyLoadStoresTheKey :
    topKey.idx = 0 ∧ KeyPasses topKey ∧ ReadsAnswered topKey.setup.platform (keyBase topKey) 18 := by decide +kernel

/-- The buffers stand at the top of the space and next to each other; the plaintext is zero. -/
theorem witness_BlockCommandsApplyKeystream :
    BlockReady (withKey 2 0xFFFFFFE0 16 0xFFFFFFF0 16) ∧
    ∀ k, k < 16 → (withKey 2 0xFFFFFFE0 16 0xFFFFFFF0 16).mem.read (src (withKey 2 0xFFFFFFE0 16 0xFFFFFFF0 16) + k) = 0 := by
  decide +kernel

theorem witness_ChainCryptAppliesKeystream :
    ChainReady (withChain 6 0x2000 32 0x2000 32) 32 ∧ ChainReady (withChain 6 0xFFFFFFFF 0 0xFFFFFFFF 0) 0 := by decide +kernel

theorem witness_EmptyMessageSucceeds :
    (withChain 6 0xFFFFFFFF 0 0xFFFFFFFF 0).chainValid = true ∧
    (withChain 6 0xFFFFFFFF 0 0xFFFFFFFF 0).latch.srcLen = 0 := by decide

/-- A wrong length, and a buffer that ends one byte past the space. -/
theorem witness_KeyLoadChecksInOrder :
    (∃ s : State, s.latch.keyLen = 17 ∧ s.latch.keyLen ≠ 18) ∧ ∃ s : State, s.latch.keyLen = 18 ∧ 2 ^ 32 < keyBase s + 18 :=
  ⟨⟨{ topKey with latch := { topKey.latch with keyLen := 17 } }, by decide⟩,
    { topKey with latch := { topKey.latch with keyAddr := 0xFFFFFFEF } }, by decide⟩

/-- One state a clause, each one byte away from passing the clause's check. -/
theorem witness_BlockChecksInOrder :
    (∃ s : State, s.keyValid = false) ∧
    (∃ s : State, s.keyValid = true ∧ s.latch.srcLen.toNat < 16) ∧
    (∃ s : State, s.keyValid = true ∧ 16 ≤ s.latch.srcLen.toNat ∧ s.latch.dstLen.toNat < 16) ∧
    (∃ s : State, s.keyValid = true ∧ 16 ≤ s.latch.srcLen.toNat ∧ 16 ≤ s.latch.dstLen.toNat ∧ 2 ^ 32 < src s + 16) ∧
    (∃ s : State, s.keyValid = true ∧ 16 ≤ s.latch.srcLen.toNat ∧ 16 ≤ s.latch.dstLen.toNat ∧ src s + 16 ≤ 2 ^ 32 ∧
      2 ^ 32 < dst s + 16) ∧
    (∃ s : State, s.keyValid = true ∧ 16 ≤ s.latch.srcLen.toNat ∧ 16 ≤ s.latch.dstLen.toNat ∧ src s + 16 ≤ 2 ^ 32 ∧
      dst s + 16 ≤ 2 ^ 32 ∧ src s ≠ dst s ∧ src s < dst s + 16 ∧ dst s < src s + 16) :=
  ⟨⟨State.reset, by decide⟩, ⟨withKey 2 0x2000 15 0x3000 16, by decide⟩, ⟨withKey 2 0x2000 16 0x3000 15, by decide⟩,
    ⟨withKey 2 0xFFFFFFF1 16 0x3000 16, by decide⟩, ⟨withKey 2 0xFFFFFFF0 16 0xFFFFFFF1 16, by decide⟩,
    ⟨withKey 2 0x2000 16 0x200F 16, by decide⟩⟩

/-- One state a clause, each one byte away from passing the clause's check. -/
theorem witness_ChainCryptChecksInOrder :
    (∃ s : State, s.latch.srcLen.toNat = 16 ∧ s.chainValid = false) ∧
    (∃ s : State, s.latch.srcLen.toNat = 17 ∧ s.chainValid = true ∧ 17 % 16 ≠ 0) ∧
    (∃ s : State, s.latch.srcLen.toNat = 16 ∧ s.chainValid = true ∧ s.latch.dstLen.toNat < 16) ∧
    (∃ s : State, s.latch.srcLen.toNat = 16 ∧ s.chainValid = true ∧ 16 ≤ s.latch.dstLen.toNat ∧ 2 ^ 32 < src s + 16) ∧
    (∃ s : State, s.latch.srcLen.toNat = 16 ∧ s.chainValid = true ∧ 16 ≤ s.latch.dstLen.toNat ∧ src s + 16 ≤ 2 ^ 32 ∧
      2 ^ 32 < dst s + 16) ∧
    (∃ s : State, s.latch.srcLen.toNat = 16 ∧ s.chainValid = true ∧ 16 ≤ s.latch.dstLen.toNat ∧ src s + 16 ≤ 2 ^ 32 ∧
      dst s + 16 ≤ 2 ^ 32 ∧ src s ≠ dst s ∧ src s < dst s + 16 ∧ dst s < src s + 16) :=
  ⟨⟨withKey 6 0x2000 16 0x3000 16, by decide⟩, ⟨withChain 6 0x2000 17 0x3000 32, by decide⟩,
    ⟨withChain 6 0x2000 16 0x3000 15, by decide⟩, ⟨withChain 6 0xFFFFFFF1 16 0x3000 16, by decide⟩,
    ⟨withChain 6 0xFFFFFFF0 16 0xFFFFFFF1 16, by decide⟩, ⟨withChain 6 0x2001 16 0x2000 16, by decide⟩⟩

theorem witness_ValidationErrorsHaveNoEffect :
    ∃ s t : State, s.err = .none ∧ s.ts = none ∧ s.held = none ∧ exec .blockEnc s = .next t ∧ t.err ≠ .none ∧ t.err ≠ .busError :=
  ⟨withKey 2 0x2000 15 0x3000 16, after (exec .blockEnc (withKey 2 0x2000 15 0x3000 16)), rfl, rfl, rfl,
    answer_after (by decide +kernel), by decide +kernel, by decide +kernel⟩

theorem witness_FailedKeyLoadKeepsKey :
    ∃ s t : State, s.err = .none ∧ exec .keyLoad s = .next t ∧ t.err ≠ .none :=
  ⟨{ withKey 1 0 0 0 0 with setup := confErr [⟨0x1011, 1⟩] [] },
    after (exec .keyLoad { withKey 1 0 0 0 0 with setup := confErr [⟨0x1011, 1⟩] [] }), rfl,
    answer_after (by decide +kernel), by decide +kernel⟩

/-- The first and the last key byte fail. -/
theorem witness_KeyLoadBusErrorNamesTheByte :
    (∃ s : State, s.idx = 0 ∧ KeyPasses s ∧ inRanges s.setup.platform.busErrRead (keyBase s + 0) = true) ∧
    ∃ s : State, s.idx = 0 ∧ KeyPasses s ∧ ReadsAnswered s.setup.platform (keyBase s) 17 ∧
      inRanges s.setup.platform.busErrRead (keyBase s + 17) = true :=
  ⟨⟨{ withKey 1 0 0 0 0 with setup := confErr [⟨0x1000, 18⟩] [] }, by decide +kernel⟩,
    { withKey 1 0 0 0 0 with setup := confErr [⟨0x1011, 1⟩] [] }, by decide +kernel⟩

/-- The last source read fails; the first destination write fails. -/
theorem witness_BlockBusErrorKeepsEarlierBytes :
    (∃ s : State, Fresh s ∧ s.mem.wf = true ∧ BlockPasses s ∧ ReadFailsAt s 15) ∧
    (∃ s : State, Fresh s ∧ s.mem.wf = true ∧ BlockPasses s ∧ WriteFailsAt s 0) :=
  ⟨⟨{ withKey 2 0x2000 16 0x3000 16 with setup := confErr [⟨0x200F, 1⟩] [] }, by decide +kernel⟩,
    ⟨{ withKey 2 0x2000 16 0x3000 16 with setup := confErr [] [⟨0x3000, 16⟩] }, by decide +kernel⟩⟩

theorem witness_ChainBusErrorEndsTheChain :
    (∃ s : State, Fresh s ∧ s.mem.wf = true ∧ ChainPasses s 32 ∧ ReadFailsAt s 31) ∧
    (∃ s : State, Fresh s ∧ s.mem.wf = true ∧ ChainPasses s 32 ∧ WriteFailsAt s 0) :=
  ⟨⟨{ withChain 6 0x2000 32 0x3000 32 with setup := confErr [⟨0x201F, 1⟩] [] }, by decide +kernel⟩,
    ⟨{ withChain 6 0x2000 32 0x3000 32 with setup := confErr [] [⟨0x3000, 16⟩] }, by decide +kernel⟩⟩

/-- The block decrypted is the one just written: memory after the encryption, source and destination exchanged. -/
def backwards (w : Word) (t : State) : State :=
  { t with
    lCmd := w, busy := true, done := false, idx := 0, ts := none,
    latch := { t.latch with srcAddr := t.latch.dstAddr, dstAddr := t.latch.srcAddr } }

def encrypted : State := after (exec .blockEnc (withKey 2 0x2000 16 0x3000 16))

theorem witness_BlockDecryptionInvertsEncryption :
    ∃ s t u v : State, BlockReady s ∧ exec .blockEnc s = .next t ∧ t.nx = false ∧ BlockReady u ∧ u.setup = s.setup ∧
      u.key = s.key ∧ (∀ k, k < 16 → u.mem.read (src u + k) = t.mem.read (dst s + k)) ∧
      exec .blockDec u = .next v ∧ v.nx = false :=
  ⟨withKey 2 0x2000 16 0x3000 16, encrypted, backwards 3 encrypted, after (exec .blockDec (backwards 3 encrypted)),
    by decide +kernel, answer_after (by decide +kernel), by decide +kernel, by decide +kernel, by decide +kernel,
    by decide +kernel, by decide +kernel, answer_after (by decide +kernel), by decide +kernel⟩

theorem witness_BlockCommandIsStateless :
    ∃ s t u v : State, BlockReady s ∧ BlockReady u ∧ u.setup = s.setup ∧ u.key = s.key ∧ u.cs ≠ s.cs ∧
      (∀ k, k < 16 → u.mem.read (src u + k) = s.mem.read (src s + k)) ∧
      exec (blockInstr .enc) s = .next t ∧ t.nx = false ∧ exec (blockInstr .enc) u = .next v ∧ v.nx = false :=
  ⟨withKey 2 0x2000 16 0x3000 16, encrypted, withChain 2 0x2000 16 0x4000 16,
    after (exec .blockEnc (withChain 2 0x2000 16 0x4000 16)),
    by decide +kernel, by decide +kernel, by decide +kernel, by decide +kernel, by decide +kernel, by decide +kernel,
    answer_after (by decide +kernel), by decide +kernel, answer_after (by decide +kernel), by decide +kernel⟩

theorem witness_BlockEqualsFirstChainedBlock : BlockReady (withKey 2 0x2000 16 0x3000 16) := by decide +kernel

theorem witness_InPlaceGivesTheSameBytes :
    (BlockReady (withKey 2 0x2000 16 0x3000 16) ∧ BlockReady (withKey 2 0x2000 16 0x2000 16)) ∧
    (ChainReady (withChain 6 0x2000 32 0x3000 32) 32 ∧ ChainReady (withChain 6 0x2000 32 0x2000 32) 32) :=
  ⟨⟨by decide +kernel, by decide +kernel⟩, by decide +kernel, by decide +kernel⟩

theorem witness_SplitMessageIsTheWholeMessage :
    ChainReady (withChain 6 0x2000 48 0x3000 48) (32 + 16) ∧ ChainReady (withChain 6 0x2000 16 0x3000 16) (16 + 0) ∧
    ChainReady (withChain 6 0xFFFFFFF0 16 0x3000 16) (16 + 0) :=
  ⟨by decide +kernel, by decide +kernel, by decide +kernel⟩

def chained : State := after (exec .chainCrypt (withChain 6 0x2000 16 0x3000 16))

/-- The chain that decrypts: the same Chaotic State, the other direction. -/
def unchained : State := { backwards 6 chained with cs := keySchedule confZ k3, cycles := 0, chainDir := .dec }

theorem witness_ChainDecryptionInvertsEncryption :
    ∃ s t u v : State, ChainReady s 16 ∧ s.chainDir = .enc ∧ exec .chainCrypt s = .next t ∧ t.nx = false ∧
      ChainReady u 16 ∧ u.chainDir = .dec ∧ u.setup = s.setup ∧ u.cs = s.cs ∧
      (∀ k, k < 16 → u.mem.read (src u + k) = t.mem.read (dst s + k)) ∧
      exec .chainCrypt u = .next v ∧ v.nx = false :=
  ⟨withChain 6 0x2000 16 0x3000 16, chained, unchained, after (exec .chainCrypt unchained),
    by decide +kernel, by decide +kernel, answer_after (by decide +kernel), by decide +kernel, by decide +kernel,
    by decide +kernel, by decide +kernel, by decide +kernel, by decide +kernel, answer_after (by decide +kernel),
    by decide +kernel⟩

theorem witness_TrajectoryIgnoresIndices :
    ∃ g g' : Gen, g.chaos.pos = g'.chaos.pos ∧ g.chaos.mix ≠ g'.chaos.mix :=
  ⟨⟨zeroChaotic, false, 0⟩, ⟨{ zeroChaotic with mix := ⟨1, 2, 0⟩ }, true, 5⟩, rfl, by decide⟩

/-- Each word order. -/
theorem witness_KeySegmentsGiveMixAndTapIndices :
    tapWordOrder confZ = .be ∧ tapWordOrder { confZ with tapWordOrder := some .le } = .le := by decide

/-- Finite operands: a sum just below the overflow bound, a sum at the bound, a difference below its negative, a divisor that is not
zero, and sums and differences of zero. -/
theorem witness_OperationsRoundToNearestEven :
    (Finite 0x7FEFFFFFFFFFFFFF ∧ Finite 0x7C80000000000000 ∧ Finite 0x7C90000000000000 ∧ Finite 0xFFEFFFFFFFFFFFFF ∧
      fVal 0x7C90000000000000 ≠ 0) ∧
    |fVal 0x7FEFFFFFFFFFFFFF + fVal 0x7C80000000000000| < overflowBound ∧
    overflowBound ≤ |fVal 0x7FEFFFFFFFFFFFFF + fVal 0x7C90000000000000| ∧
    overflowBound ≤ |fVal 0xFFEFFFFFFFFFFFFF - fVal 0x7C90000000000000| ∧
    fVal 0x7C90000000000000 + fVal 0xFC90000000000000 = 0 ∧ fVal 0x8000000000000000 - fVal 0x0000000000000000 = 0 := by
  decide +kernel

/-- The overflow bound itself rounds to an infinity, and less of it to the greatest finite value (R9). -/
theorem test_overflow :
    fAdd 0x7FEFFFFFFFFFFFFF 0x7C90000000000000 = 0x7FF0000000000000 ∧
    fAdd 0x7FEFFFFFFFFFFFFF 0x7C80000000000000 = 0x7FEFFFFFFFFFFFFF := by decide +kernel

/-- NaN operands, a finite zero, and the least subnormal, which is not zero. -/
theorem witness_NansAndInfinitiesAreCarriedThrough :
    fIsNan 0x7FF8000000000000 = true ∧ fIsNan 0xFFF0000000000001 = true ∧ Finite 0x8000000000000000 ∧
    Finite 0x0000000000000001 ∧ fVal 0x0000000000000001 ≠ 0 := by decide +kernel

/-- -2^63 is in range, 2^63 and an infinity are not. -/
theorem witness_TruncGoesTowardZero :
    (Finite 0xC3E0000000000000 ∧ -(2 ^ 63 : ℚ) ≤ fVal 0xC3E0000000000000 ∧ fVal 0xC3E0000000000000 < 2 ^ 63) ∧
    (2 ^ 63 : ℚ) ≤ fVal 0x43E0000000000000 ∧ ¬Finite 0x7FF0000000000000 := by decide +kernel

theorem witness_ExtractionTakesOneByte :
    trunc64 (fMul 0x40F6849B86A12B9A confZ.numerics.extScale) = some 0x7FFFFFFFFFFFFC00 ∧
    trunc64 (fMul 0x40F6849B86A12B9B confZ.numerics.extScale) = none := by decide +kernel

theorem witness_SeedPositionsLieInTheirRanges :
    confZ.numerics = {} ∧ segment k3 0 = 1 ∧ segment k3 1 = 2 ∧ segment k3 2 = 0 := by decide

theorem witness_IdleCommandWriteIsAccepted :
    ∃ s : State, s.busy = false ∧ s.inputs = .regWrite .w32 0x08 2 :: [.engine 1] :=
  ⟨{ State.reset with inputs := [.regWrite .w32 0x08 2, .engine 1] }, rfl, rfl⟩

theorem witness_BusyCommandWriteIsDropped :
    ∃ s : State, s.busy = true ∧ s.inputs = .regWrite .w32 0x08 0xFFFFFFFF :: [] :=
  ⟨{ withKey 2 0x2000 16 0x3000 16 with inputs := [.regWrite .w32 0x08 0xFFFFFFFF] }, rfl, rfl⟩

theorem witness_WindowRegistersReadAndWrite :
    (0x74 ≤ (0x74 : BitVec 8).toNat ∧ 0x74 ≤ (0xFF : BitVec 8).toNat ∧ 0x2C ≤ (0x2C : BitVec 8).toNat) ∧
    State.reset.busy = false ∧ (withKey 2 0x2000 16 0x3000 16).busy = true := by decide

theorem witness_IdleMirrorsShowChainState :
    (withChain 6 0 0 0 0).cs ≠ zeroChaotic ∧ { withChain 6 0 0 0 0 with busy := false }.busy = false := by decide +kernel

/-- The last aligned offset, the last offset, and a byte access. -/
theorem witness_RegisterReadsHaveNoSideEffects :
    ((0xFC : BitVec 8).toNat % 4 = 0 ∧ (0xFF : BitVec 8).toNat % 4 ≠ 0 ∧ Width.w8 ≠ .w32) ∧
    ∀ (e : Event) (rest : List Event), ∃ s : State, s.busy = false ∧ s.inputs = e :: rest :=
  ⟨by decide, fun e rest => ⟨{ State.reset with inputs := e :: rest }, rfl, rfl⟩⟩

theorem witness_InterruptFollowsDone :
    ∃ s t : State, s.busy = true ∧ s.ie = true ∧ exec .nop s = .next t :=
  ⟨{ accept 0 State.reset with ie := true }, _, rfl, rfl, rfl⟩

theorem witness_ResetAbandonsAndClears :
    ∃ s : State, s.busy = true ∧ s.inputs = .reset :: [.engine 2] :=
  ⟨{ withKey 2 0x2000 16 0x3000 16 with inputs := [.reset, .engine 2] }, rfl, rfl⟩

/-- A key that a load changes, and one that CLEAR changes. -/
theorem witness_KeyChangesOnlyByLoadClearReset :
    (∃ s t : State, step s = .next t ∧ t.key ≠ s.key ∧ fetch s = .keyLoad) ∧
    (∃ s t : State, step s = .next t ∧ t.key ≠ s.key ∧ fetch s = .clear) :=
  ⟨⟨withKey 1 0 0 0 0, after (step (withKey 1 0 0 0 0)), answer_after (by decide +kernel), by decide +kernel, by decide⟩,
    ⟨withKey 7 0 0 0 0, after (step (withKey 7 0 0 0 0)), answer_after (by decide +kernel), by decide +kernel, by decide⟩⟩

/-- A chain that a bus error ends, and one that CHAIN_CRYPT advances. -/
theorem witness_ChainEndsOnlyAsListed :
    (∃ s t : State, s.chainValid = true ∧ step s = .next t ∧ t.chainValid = false ∧ t.err = .busError) ∧
    (∃ s t : State, s.chainValid = true ∧ step s = .next t ∧ t.chainValid = true ∧ t.cycles ≠ s.cycles) :=
  ⟨⟨{ withChain 6 0x2000 16 0x3000 16 with setup := confErr [⟨0x2000, 1⟩] [] },
      after (step { withChain 6 0x2000 16 0x3000 16 with setup := confErr [⟨0x2000, 1⟩] [] }), rfl,
      answer_after (by decide +kernel), by decide +kernel, by decide +kernel⟩,
    ⟨withChain 6 0x2000 16 0x3000 16, after (step (withChain 6 0x2000 16 0x3000 16)), rfl,
      answer_after (by decide +kernel), by decide +kernel, by decide +kernel⟩⟩

theorem witness_StatusShowsItsFields : ∀ (e : ErrCode) (a : ErrArg), ∃ s : State, s.err = e ∧ s.errArg = a :=
  fun e a => ⟨{ State.reset with err := e, errArg := a }, rfl, rfl⟩

/-- The byte below the register window is plain memory, with coherence and without; events that leave memory alone happen. -/
theorem witness_CachedStoreNeedsCleaning :
    (∃ s : State, s.mem.wf = true ∧ plainMemory s.setup.platform (0x7FFFFFFF : Word).toNat = true ∧
      s.setup.platform.memCoherent = true) ∧
    ∃ s : State, s.mem.wf = true ∧ plainMemory s.setup.platform (0xFFFFFFFF : Word).toNat = true ∧
      s.setup.platform.memCoherent = false ∧ isNext (happen (.hostStore 0xFFFFFFFF 1) s) = true ∧
      isNext (happen (.hostLoad 0xFFFFFFFF) s) = true ∧ plainMemory s.setup.platform (0x80000000 : Word).toNat = false :=
  ⟨⟨State.reset, by decide⟩, { State.reset with setup := confCached }, by decide⟩

/-- A store one byte past the destination of a running block, and a load of its source. -/
theorem witness_DutifulHostDoesNotDisturb :
    ∃ s s1 t : State, ∃ e : Event, s.mem.wf = true ∧ s.busy = true ∧ dutiful s e = true ∧ e ≠ .reset ∧ (∀ n, e ≠ .engine n) ∧
      happen e s = .next s1 ∧ s1.mem ≠ s.mem ∧ exec (fetch s) s = .next t :=
  ⟨withKey 2 0x2000 16 0x3000 16, after (happen (.hostStore 0x3010 7) (withKey 2 0x2000 16 0x3000 16)), encrypted,
    .hostStore 0x3010 7, rfl, rfl, by decide, by decide, by intro n; simp, answer_after (by decide), by decide,
    answer_after (by decide +kernel)⟩

end Sys2Proof.Tests
end

section
/-! PROOFS. The configuration (spec 00_scope.md R6): what every access, command, event and step leaves, proved operation by operation. -/

namespace Sys2Proof.Proofs

open Sys2Proof.Machine

/-! ### What a work phase leaves -/

/-- `P` holds of the state an access or a run of accesses leaves, whether the command goes on there or has ended. -/
def Leaves (P : State → Prop) : Work → Prop
  | .going s => P s
  | .ended s => P s
  | .stuck _ => True

/-- `P` holds of the next state, if the answer has one. -/
def Reaches (P : State → Prop) (a : Answer) : Prop := ∀ t, a = .next t → P t

@[simp] theorem reaches_next {P : State → Prop} {s : State} : Reaches P (.next s) ↔ P s := by simp [Reaches]

@[simp] theorem reaches_fault {P : State → Prop} {f : Fault} : Reaches P (.fault f) := by simp [Reaches]

@[simp] theorem reaches_refused {P : State → Prop} {r : Refusal} : Reaches P (.refused r) := by simp [Reaches]

/-- What every access keeps, a run of accesses keeps. -/
theorem runAccesses_leaves {P : State → Prop} {access : State → Work} (keep : ∀ u, P u → Leaves P (access u)) (n : Nat) {s : State}
    (hs : P s) : Leaves P (runAccesses access n s) := by
  induction n generalizing s with
  | zero => exact hs
  | succ n ih =>
    have hk := keep s hs
    cases h : access s with
    | going t => rw [h] at hk; rw [runAccesses_succ_going n h]; exact ih hk
    | ended t => rw [h] at hk; rw [runAccesses_succ_ended n h]; exact hk
    | stuck f => rw [runAccesses_succ_stuck n h]; trivial

/-- What every access and the completion keep, a turn of work keeps. -/
theorem workFor_reaches {P : State → Prop} {access : State → Work} {commit : State → State} (keep : ∀ u, P u → Leaves P (access u))
    (done : ∀ u, P u → P (complete (commit u))) (budget remaining : Nat) {s : State} (hs : P s) :
    Reaches P (workFor access commit budget remaining s) := by
  have hrun := runAccesses_leaves keep (min budget remaining) hs
  obtain ⟨t, hr, ⟨-, e⟩ | ⟨-, e⟩⟩ | ⟨t, hr, e⟩ | ⟨f, -, e⟩ := workFor_cases access commit budget remaining s
  · rw [e, reaches_next]; rw [hr] at hrun; exact done t hrun
  · rw [e, reaches_next]; rw [hr] at hrun; exact hrun
  · rw [e, reaches_next]; rw [hr] at hrun; exact hrun
  · rw [e]; exact reaches_fault

/-- A validated command reaches what its work and the report of a failed check reach. -/
theorem validated_reaches {P : State → Prop} {check : Option Report} {buffers : List (Nat × Nat)} {s : State} {work : Answer}
    (fails : ∀ r, P (raiseError r s)) (works : Reaches P work) : Reaches P (validated check buffers s work) := by
  obtain ⟨r, -, e⟩ | ⟨-, -, e⟩ | ⟨-, -, e⟩ := validated_cases check buffers s work <;> rw [e]
  · exact reaches_next.2 (fails r)
  · exact reaches_fault
  · exact works

/-! ### The configuration stays -/

/-- The state carries the configuration `c`. -/
abbrev HasSetup (c : Setup) (s : State) : Prop := s.setup = c

section Configuration

variable {c : Setup} {s : State}

theorem keyByte_setup (hs : HasSetup c s) : Leaves (HasSetup c) (keyByte s) := by
  obtain ⟨-, e⟩ | ⟨-, e⟩ | ⟨b, -, e⟩ := keyByte_cases s <;> rw [e]
  · exact hs
  · trivial
  · exact hs

/-- A data access keeps the configuration when what the command does beside it does. -/
theorem dataAccess_setup {dir : Dir} {x : Chaotic} {put : Chaotic → State → State} {lose : State → State}
    (hput : ∀ y u, (put y u).setup = u.setup) (hlose : ∀ u, (lose u).setup = u.setup) (hs : HasSetup c s) :
    Leaves (HasSetup c) (dataAccess dir x put lose s) := by
  cases hh : s.held with
  | none =>
    rw [dataAccess_read hh]
    obtain ⟨-, e⟩ | ⟨-, e⟩ | ⟨b, -, e⟩ := readAccess_cases lose s <;> rw [e]
    · exact (hlose s).trans hs
    · trivial
    · exact hs
  | some b =>
    rw [dataAccess_write hh]
    obtain ⟨-, e⟩ | ⟨-, e⟩ | ⟨m, -, e⟩ := writeAccess_cases dir x put lose b s <;> rw [e]
    · exact (hlose _).trans hs
    · trivial
    · exact (hput _ _).trans hs

theorem blockAccess_setup (d : Dir) (hs : HasSetup c s) : Leaves (HasSetup c) (blockAccess d s) :=
  dataAccess_setup (fun _ _ => rfl) (fun _ => rfl) hs

theorem chainAccess_setup (hs : HasSetup c s) : Leaves (HasSetup c) (chainAccess s) :=
  dataAccess_setup (fun _ _ => rfl) loseChain_setup hs

theorem keyLoadFor_setup (n : Nat) (hs : HasSetup c s) : Reaches (HasSetup c) (keyLoadFor n s) :=
  validated_reaches (fun _ => hs) (workFor_reaches (commit := commitKey) (fun _ => keyByte_setup) (fun _ hu => hu) n _ hs)

theorem blockFor_setup (d : Dir) (n : Nat) (hs : HasSetup c s) : Reaches (HasSetup c) (blockFor d n s) :=
  validated_reaches (fun _ => hs)
    (workFor_reaches (commit := id) (s := deriveTs s) (fun _ => blockAccess_setup d) (fun _ hu => hu) n _ hs)

theorem chainCryptFor_setup (n : Nat) (hs : HasSetup c s) : Reaches (HasSetup c) (chainCryptFor n s) :=
  validated_reaches (fun _ => hs) (workFor_reaches (commit := id) (fun _ => chainAccess_setup) (fun _ hu => hu) n _ hs)

theorem chainInit_setup (d : Dir) (hs : HasSetup c s) : Reaches (HasSetup c) (chainInit d s) := by
  obtain ⟨-, e⟩ | ⟨-, e⟩ := chainInit_cases d s <;> rw [e, reaches_next] <;> exact hs

theorem exec_setup (i : Instr) (hs : HasSetup c s) : Reaches (HasSetup c) (exec i s) := by
  cases i with
  | keyLoad => exact keyLoadFor_setup _ hs
  | blockEnc => exact blockFor_setup .enc _ hs
  | blockDec => exact blockFor_setup .dec _ hs
  | chainInitEnc => exact chainInit_setup .enc hs
  | chainInitDec => exact chainInit_setup .dec hs
  | chainCrypt => exact chainCryptFor_setup _ hs
  | nop | clear | illegalOpc08 | illegalOpc10 | illegalOpc20 | illegalOpc40 | illegalOpc80 | illegalRsv => exact reaches_next.2 hs

theorem unlessZero_reaches {P : State → Prop} {whole : Answer} (n : Nat) (hs : P s) (hw : Reaches P whole) :
    Reaches P (unlessZero n whole s) := by
  cases n with
  | zero => exact reaches_next.2 hs
  | succ n => exact hw

theorem execFor_setup (n : Nat) (i : Instr) (hs : HasSetup c s) : Reaches (HasSetup c) (execFor n i s) := by
  cases i with
  | keyLoad => exact keyLoadFor_setup n hs
  | blockEnc => exact blockFor_setup .enc n hs
  | blockDec => exact blockFor_setup .dec n hs
  | chainCrypt => exact chainCryptFor_setup n hs
  | nop | clear | chainInitEnc | chainInitDec | illegalOpc08 | illegalOpc10 | illegalOpc20 | illegalOpc40 | illegalOpc80
  | illegalRsv => exact unlessZero_reaches n hs (exec_setup _ hs)

theorem engineTurn_setup (n : Nat) (hs : HasSetup c s) : Reaches (HasSetup c) (engineTurn n s) := by
  unfold engineTurn
  split
  · exact execFor_setup n _ hs
  · exact reaches_next.2 hs

theorem engineAlone_setup (hs : HasSetup c s) : Reaches (HasSetup c) (engineAlone s) := by
  unfold engineAlone
  split
  · exact exec_setup _ hs
  · exact reaches_next.2 hs

end Configuration

theorem writeCmd_setup (v : Word) (s : State) : (writeCmd v s).setup = s.setup := by
  unfold writeCmd
  split <;> rfl

theorem writeReg_setup (r : Reg) (v : Word) (s : State) : (writeReg r v s).setup = s.setup := by
  cases r with
  | cmd => exact writeCmd_setup v s
  | _ => rfl

theorem writeOffset_setup (off : BitVec 8) (v : Word) (s : State) : (writeOffset off v s).setup = s.setup := by
  unfold writeOffset
  split
  · rfl
  · exact writeReg_setup _ v s

theorem hostClean_setup (a : Word) (s : State) : (hostClean a s).setup = s.setup := by
  unfold hostClean
  split
  · split <;> rfl
  · rfl

section Events

variable {c : Setup} {s : State}

theorem regRead_setup (w : Width) (off : BitVec 8) (hs : HasSetup c s) : Reaches (HasSetup c) (regRead w off s) := by
  unfold regRead
  split
  · exact reaches_next.2 hs
  · exact reaches_refused

theorem regWrite_setup (w : Width) (off : BitVec 8) (v : Word) (hs : HasSetup c s) :
    Reaches (HasSetup c) (regWrite w off v s) := by
  unfold regWrite
  split
  · exact reaches_next.2 ((writeOffset_setup off v s).trans hs)
  · exact reaches_refused

theorem hostStore_setup (a : Word) (v : Byte) (hs : HasSetup c s) : Reaches (HasSetup c) (hostStore a v s) := by
  unfold hostStore
  split
  · exact reaches_refused
  · split <;> exact reaches_next.2 hs

theorem hostLoad_setup (a : Word) (hs : HasSetup c s) : Reaches (HasSetup c) (hostLoad a s) := by
  unfold hostLoad
  split
  · exact reaches_refused
  · exact reaches_next.2 hs

theorem busWrite_setup (a : Word) (v : Byte) (hs : HasSetup c s) : Reaches (HasSetup c) (busWrite a v s) := by
  unfold busWrite
  split
  · exact reaches_refused
  · exact reaches_next.2 hs

/-- No event changes the configuration. -/
theorem happen_setup (e : Event) (hs : HasSetup c s) : Reaches (HasSetup c) (happen e s) := by
  cases e with
  | regRead w off => exact regRead_setup w off hs
  | regWrite w off v => exact regWrite_setup w off v hs
  | hostStore a v => exact hostStore_setup a v hs
  | hostLoad a => exact hostLoad_setup a hs
  | hostClean a => exact reaches_next.2 ((hostClean_setup a s).trans hs)
  | hostInvalidate a => exact reaches_next.2 hs
  | busWrite a v => exact busWrite_setup a v hs
  | reset => exact reaches_next.2 hs
  | engine n => exact engineTurn_setup n hs

theorem step_setup (hs : HasSetup c s) : Reaches (HasSetup c) (step s) := by
  unfold step
  split
  · exact happen_setup _ hs
  · exact engineAlone_setup hs

end Events

/-- Settles O11, from what each event and each command leaves of the configuration. -/
theorem stepKeepsConfiguration : Obligations.StepKeepsConfiguration := by
  unfold Obligations.StepKeepsConfiguration
  intro s t h
  exact step_setup rfl t h

end Sys2Proof.Proofs
end

section
/-! PROOFS. Binary64 patterns (spec 00_scope.md R9): the fields of a packed pattern, the value a packed significand stands for, and
which values lie on the grid of a unit in the last place. -/

namespace Sys2Proof.Proofs

open Sys2Proof.Machine Sys2Proof.Safety

/-! ### Fields -/

theorem fExp_eq (a : F64) : fExp a = a.toNat / 2 ^ 52 % 2 ^ 11 := by
  simp [fExp, BitVec.extractLsb'_toNat, Nat.shiftRight_eq_div_pow]

theorem fFrac_eq (a : F64) : fFrac a = a.toNat % 2 ^ 52 := by
  simp [fFrac, BitVec.extractLsb'_toNat]

theorem fSign_eq (a : F64) : fSign a = decide (2 ^ 63 ≤ a.toNat) := by
  rw [fSign, ← BitVec.msb_eq_getLsbD_last (w := 64), BitVec.msb_eq_decide]

theorem fFrac_lt (a : F64) : fFrac a < 2 ^ 52 := (a.extractLsb' 0 52).isLt

section Pack

variable {m : Nat}

theorem fPack_toNat (neg : Bool) (hm : m < 2 ^ 63) : (fPack neg m).toNat = m + if neg then 2 ^ 63 else 0 := by
  rw [fPack, BitVec.toNat_ofNat]
  apply Nat.mod_eq_of_lt
  split <;> omega

theorem fSign_fPack (neg : Bool) (hm : m < 2 ^ 63) : fSign (fPack neg m) = neg := by
  rw [fSign_eq, fPack_toNat neg hm]
  cases neg
  · simpa using hm
  · simp

theorem fExp_fPack (neg : Bool) (hm : m < 2 ^ 63) : fExp (fPack neg m) = m / 2 ^ 52 := by
  rw [fExp_eq, fPack_toNat neg hm]
  split <;> omega

theorem fFrac_fPack (neg : Bool) (hm : m < 2 ^ 63) : fFrac (fPack neg m) = m % 2 ^ 52 := by
  rw [fFrac_eq, fPack_toNat neg hm]
  split <;> omega

end Pack

@[simp] theorem fSign_fZero (neg : Bool) : fSign (fZero neg) = neg := fSign_fPack neg (by decide)

@[simp] theorem fExp_fZero (neg : Bool) : fExp (fZero neg) = 0 := fExp_fPack neg (by decide)

@[simp] theorem fFrac_fZero (neg : Bool) : fFrac (fZero neg) = 0 := fFrac_fPack neg (by decide)

@[simp] theorem fSign_fInf (neg : Bool) : fSign (fInf neg) = neg := fSign_fPack neg (by decide)

@[simp] theorem fExp_fInf (neg : Bool) : fExp (fInf neg) = 2047 := fExp_fPack neg (by decide)

@[simp] theorem fFrac_fInf (neg : Bool) : fFrac (fInf neg) = 0 := fFrac_fPack neg (by decide)

/-! ### Classes -/

@[simp] theorem fIsNan_fZero (neg : Bool) : fIsNan (fZero neg) = false := by simp [fIsNan]

@[simp] theorem fIsInf_fZero (neg : Bool) : fIsInf (fZero neg) = false := by simp [fIsInf]

@[simp] theorem fIsZero_fZero (neg : Bool) : fIsZero (fZero neg) = true := by simp [fIsZero]

@[simp] theorem fIsNan_fInf (neg : Bool) : fIsNan (fInf neg) = false := by simp [fIsNan]

@[simp] theorem fIsInf_fInf (neg : Bool) : fIsInf (fInf neg) = true := by simp [fIsInf]

@[simp] theorem fIsZero_fInf (neg : Bool) : fIsZero (fInf neg) = false := by simp [fIsZero]

theorem fIsNan_of_finite {a : F64} (h : Finite a) : fIsNan a = false := by simp [fIsNan, h]

theorem fIsInf_of_finite {a : F64} (h : Finite a) : fIsInf a = false := by simp [fIsInf, h]

/-- Whatever the free bits are, the result of an invalid operation is a NaN: the quiet bit is set (log 11). -/
@[simp] theorem fIsNan_fNan (op : FloatOp) (a b : F64) : fIsNan (fNan op a b) = true := by
  have hp := ((Config.nanTail op a b).extractLsb' 0 51).isLt
  have hm : 2047 * 2 ^ 52 + 2 ^ 51 + ((Config.nanTail op a b).extractLsb' 0 51).toNat < 2 ^ 63 := by omega
  simp only [fIsNan, fNan, fExp_fPack _ hm, fFrac_fPack _ hm, Bool.and_eq_true, beq_iff_eq, bne_iff_ne]
  omega

/-! ### The opposite sign -/

@[simp] theorem fSign_fNeg (a : F64) : fSign (fNeg a) = !fSign a := by simp [fSign, fNeg]

@[simp] theorem fExp_fNeg (a : F64) : fExp (fNeg a) = fExp a := by simp [fExp, fNeg, BitVec.extractLsb'_xor]

@[simp] theorem fFrac_fNeg (a : F64) : fFrac (fNeg a) = fFrac a := by simp [fFrac, fNeg, BitVec.extractLsb'_xor]

@[simp] theorem fMant_fNeg (a : F64) : fMant (fNeg a) = fMant a := by simp [fMant]

@[simp] theorem fPow_fNeg (a : F64) : fPow (fNeg a) = fPow a := by simp [fPow]

@[simp] theorem fIsNan_fNeg (a : F64) : fIsNan (fNeg a) = fIsNan a := by simp [fIsNan]

@[simp] theorem fIsInf_fNeg (a : F64) : fIsInf (fNeg a) = fIsInf a := by simp [fIsInf]

@[simp] theorem fNeg_fInf (neg : Bool) : fNeg (fInf neg) = fInf (!neg) := by revert neg; decide

@[simp] theorem fVal_fNeg (a : F64) : fVal (fNeg a) = -fVal a := by
  simp only [fVal, fSign_fNeg, fMant_fNeg, fPow_fNeg]
  cases fSign a <;> simp

/-! ### Values -/

/-- The sign factor of a value. -/
def signOf (neg : Bool) : ℚ := if neg then -1 else 1

@[simp] theorem signOf_true : signOf true = -1 := rfl

@[simp] theorem signOf_false : signOf false = 1 := rfl

@[simp] theorem abs_signOf (neg : Bool) : |signOf neg| = 1 := by cases neg <;> simp

@[simp] theorem signOf_mul_self (neg : Bool) : signOf neg * signOf neg = 1 := by cases neg <;> simp

theorem signOf_xor (x y : Bool) : signOf (x != y) = signOf x * signOf y := by cases x <;> cases y <;> simp

theorem fVal_eq (a : F64) : fVal a = signOf (fSign a) * fMant a * 2 ^ fPow a := rfl

theorem abs_fVal (a : F64) : |fVal a| = fMant a * 2 ^ fPow a := by
  rw [fVal_eq, abs_mul, abs_mul, abs_signOf, one_mul, Nat.abs_cast, abs_of_pos (zpow_pos two_pos _)]

theorem fMant_lt (a : F64) : fMant a < 2 ^ 53 := by
  have := fFrac_lt a
  unfold fMant
  split <;> omega

theorem le_fPow (a : F64) : -1074 ≤ fPow a := by
  unfold fPow
  omega

theorem fMant_eq_zero {a : F64} : fMant a = 0 ↔ fIsZero a = true := by
  simp only [fMant, fIsZero, Bool.and_eq_true, beq_iff_eq]
  split <;> omega

theorem fVal_eq_zero {a : F64} : fVal a = 0 ↔ fIsZero a = true := by
  rw [← abs_eq_zero, abs_fVal, mul_eq_zero, or_iff_left (zpow_ne_zero _ two_ne_zero), Nat.cast_eq_zero, fMant_eq_zero]

@[simp] theorem fVal_fZero (neg : Bool) : fVal (fZero neg) = 0 := fVal_eq_zero.2 (fIsZero_fZero neg)

end Sys2Proof.Proofs
end

section
/-! PROOFS. The rounding of an exact quotient (spec 00_scope.md R9; log 22): `fRound` is the nearest binary64 value, ties to even, or
an infinity from the overflow bound on. -/

namespace Sys2Proof.Proofs

open Sys2Proof.Machine Sys2Proof.Safety

/-! ### Rounding to an integer -/

/-- `m` is `t` rounded to an integer, ties to even. -/
def IsRounded (m : ℕ) (t : ℚ) : Prop := |(m : ℚ) - t| ≤ 1 / 2 ∧ (|(m : ℚ) - t| = 1 / 2 → m % 2 = 0)

theorem roundHalfEven_isRounded (n : ℕ) {d : ℕ} (hd : 0 < d) : IsRounded (roundHalfEven n d) (n / d) := by
  have hdq : (0 : ℚ) < d := by exact_mod_cast hd
  obtain ⟨f, hf⟩ : ∃ f : ℚ, f = (n % d : ℕ) / d := ⟨_, rfl⟩
  have hn : (n : ℚ) / d = (n / d : ℕ) + f := by
    rw [hf, div_eq_iff hdq.ne', add_mul, div_mul_cancel₀ _ hdq.ne']
    exact_mod_cast (Nat.div_add_mod' n d).symm
  have hf0 : 0 ≤ f := by rw [hf]; positivity
  have hf1 : f < 1 := by rw [hf, div_lt_one hdq]; exact_mod_cast Nat.mod_lt n hd
  have hlt : d < 2 * (n % d) ↔ 1 / 2 < f := by
    rw [hf, div_lt_div_iff₀ two_pos hdq, one_mul, mul_comm (_ : ℚ) 2]
    exact_mod_cast Iff.rfl
  have heq : 2 * (n % d) = d ↔ f = 1 / 2 := by
    rw [hf, div_eq_div_iff hdq.ne' two_ne_zero, one_mul, mul_comm (_ : ℚ) 2]
    exact_mod_cast Iff.rfl
  rw [hn, IsRounded, roundHalfEven]
  split_ifs with hup htie
  · rw [hlt] at hup
    push_cast
    rw [abs_of_nonneg (by linarith)]
    exact ⟨by linarith, fun h => by linarith⟩
  · rw [heq] at htie
    push_cast
    rw [abs_of_nonneg (by linarith)]
    exact ⟨by linarith, fun _ => by omega⟩
  · rw [hlt] at hup
    rw [heq] at htie
    rw [abs_of_nonpos (by linarith)]
    exact ⟨by linarith, fun h => Nat.mod_two_ne_one.1 fun hodd => htie ⟨by linarith, hodd⟩⟩

/-- No integer is nearer than the rounded one, and one as near leaves the even one. -/
theorem IsRounded.nearest_int {m : ℕ} {t : ℚ} (h : IsRounded m t) (n : ℤ) :
    |(m : ℚ) - t| ≤ |(n : ℚ) - t| ∧ (|(m : ℚ) - t| = |(n : ℚ) - t| → (n : ℚ) ≠ m → m % 2 = 0) := by
  obtain ⟨hle, heven⟩ := h
  by_cases hnm : n = (m : ℤ)
  · subst hnm
    simp
  · have hfar : (1 : ℚ) ≤ |(n : ℚ) - m| := by exact_mod_cast Int.one_le_abs (sub_ne_zero.2 hnm)
    have htri : |(n : ℚ) - m| ≤ |(n : ℚ) - t| + |(m : ℚ) - t| := by
      rw [abs_sub_comm (m : ℚ)]
      exact abs_sub_le _ _ _
    exact ⟨by linarith, fun htie _ => heven (by linarith)⟩

/-- What lies below an integer that `t` reaches is farther from `t` than the rounded integer. -/
theorem IsRounded.nearer_than_below {m : ℕ} {t u : ℚ} (h : IsRounded m t) (b : ℤ) (hu : u < b) (hb : b ≤ t) :
    |(m : ℚ) - t| < |u - t| := by
  have hm := (h.nearest_int b).1
  rw [abs_sub_comm (b : ℚ), abs_of_nonneg (sub_nonneg.2 hb)] at hm
  rw [abs_sub_comm u, abs_of_nonneg (by linarith : (0 : ℚ) ≤ t - u)]
  linarith

/-! ### The unit in the last place -/

theorem two_zpow_eq_div (k : ℤ) : (2 : ℚ) ^ k = 2 ^ k.toNat / 2 ^ (-k).toNat := by
  rw [eq_div_iff (by positivity), ← zpow_natCast, ← zpow_natCast, ← zpow_add₀ two_ne_zero]
  congr 1
  omega

/-- `floorLog2Ratio` is the binary exponent of the quotient. -/
theorem floorLog2Ratio_spec {n d : ℕ} (hn : n ≠ 0) (hd : d ≠ 0) :
    (2 : ℚ) ^ floorLog2Ratio n d ≤ n / d ∧ (n : ℚ) / d < 2 ^ (floorLog2Ratio n d + 1) := by
  have hdq : (0 : ℚ) < d := by exact_mod_cast Nat.pos_of_ne_zero hd
  have hn1 : (2 : ℚ) ^ n.log2 ≤ n := by exact_mod_cast Nat.log2_self_le hn
  have hn2 : (n : ℚ) < 2 ^ (n.log2 + 1) := by exact_mod_cast Nat.lt_log2_self
  have hd1 : (2 : ℚ) ^ d.log2 ≤ d := by exact_mod_cast Nat.log2_self_le hd
  have hd2 : (d : ℚ) < 2 ^ (d.log2 + 1) := by exact_mod_cast Nat.lt_log2_self
  obtain ⟨k, hk⟩ : ∃ k : ℤ, k = (n.log2 : ℤ) - d.log2 := ⟨_, rfl⟩
  have hup : (n : ℚ) / d < 2 ^ (k + 1) := by
    calc (n : ℚ) / d < 2 ^ (n.log2 + 1) / 2 ^ d.log2 := by gcongr
      _ = 2 ^ (k + 1) := by
        rw [← zpow_natCast, ← zpow_natCast, ← zpow_sub₀ two_ne_zero]
        congr 1
        omega
  have hlow : (2 : ℚ) ^ (k - 1) ≤ n / d := by
    calc (2 : ℚ) ^ (k - 1) = 2 ^ n.log2 / 2 ^ (d.log2 + 1) := by
          rw [← zpow_natCast, ← zpow_natCast, ← zpow_sub₀ two_ne_zero]
          congr 1
          omega
      _ ≤ n / d := by gcongr
  have htest : d * 2 ^ k.toNat ≤ n * 2 ^ (-k).toNat ↔ (2 : ℚ) ^ k ≤ n / d := by
    rw [two_zpow_eq_div, div_le_div_iff₀ (by positivity) hdq, mul_comm _ (d : ℚ)]
    exact_mod_cast Iff.rfl
  simp only [floorLog2Ratio, ← hk, htest]
  split_ifs with h
  · exact ⟨h, hup⟩
  · exact ⟨hlow, by rw [sub_add_cancel]; exact not_le.1 h⟩

/-- The unit in the last place of grid `k`: that of the subnormals for `k = 0`, twice as large with each next `k`. -/
def ulp (k : ℕ) : ℚ := 2 ^ ((k : ℤ) - 1074)

theorem ulp_pos (k : ℕ) : 0 < ulp k := zpow_pos two_pos _

theorem ulp_mono {j k : ℕ} (h : j ≤ k) : ulp j ≤ ulp k := zpow_le_zpow_right₀ one_le_two (by omega)

theorem ulp_succ (k : ℕ) : ulp (k + 1) = 2 * ulp k := by
  rw [ulp, ulp, mul_comm, ← zpow_add_one₀ two_ne_zero]
  congr 1
  omega

/-- `y` is `t` units of grid `k`, with a significand of 53 bits unless the grid is that of the subnormals. -/
structure OnGrid (y : ℚ) (k : ℕ) (t : ℚ) : Prop where
  value : y = t * ulp k
  nonneg : 0 ≤ t
  lt : t < 2 ^ 53
  normal : k = 0 ∨ 2 ^ 52 ≤ t

theorem IsRounded.le_of_lt {m b : ℕ} {t : ℚ} (h : IsRounded m t) (ht : t < b) : m ≤ b := by
  have := (abs_le.1 h.1).2
  have : (m : ℚ) < b + 1 := by linarith
  exact Nat.lt_succ_iff.1 (by exact_mod_cast this)

theorem IsRounded.le_of_le {m b : ℕ} {t : ℚ} (h : IsRounded m t) (ht : b ≤ t) : b ≤ m := by
  have := (abs_le.1 h.1).1
  have : (b : ℚ) < m + 1 := by linarith
  exact Nat.lt_succ_iff.1 (by exact_mod_cast this)

/-- Each value lies on grid `k`, or below the normal numbers of that grid. -/
theorem fVal_on_grid_or_below (c : F64) (k : ℕ) :
    (∃ n : ℤ, fVal c = n * ulp k) ∨ (k ≠ 0 ∧ |fVal c| < 2 ^ 52 * ulp k) := by
  by_cases h : (k : ℤ) - 1074 ≤ fPow c
  · left
    obtain ⟨j, hj⟩ := Int.eq_ofNat_of_zero_le (sub_nonneg.2 h)
    refine ⟨(if fSign c then -1 else 1) * fMant c * 2 ^ j, ?_⟩
    rw [fVal_eq, ulp, show fPow c = j + ((k : ℤ) - 1074) by omega, zpow_add₀ two_ne_zero, zpow_natCast, signOf]
    push_cast
    ring
  · right
    have hk := le_fPow c
    refine ⟨by omega, ?_⟩
    have hm : (fMant c : ℚ) < 2 ^ 53 := by exact_mod_cast fMant_lt c
    calc |fVal c| = fMant c * 2 ^ fPow c := abs_fVal c
      _ < 2 ^ 53 * 2 ^ fPow c := by gcongr
      _ ≤ 2 ^ 53 * 2 ^ ((k : ℤ) - 1074 - 1) := by gcongr <;> norm_num; omega
      _ = 2 ^ 52 * ulp k := by rw [zpow_sub_one₀ two_ne_zero, ulp]; ring

/-! ### Packing a significand -/

/-- The fields of a significand added to its exponent field, by where the significand stands: subnormal, normal, or carried out. -/
theorem packed_fields {k m : ℕ} (hm : m ≤ 2 ^ 53) (hn : k = 0 ∨ 2 ^ 52 ≤ m) :
    (m < 2 ^ 52 ∧ k = 0 ∧ (k * 2 ^ 52 + m) / 2 ^ 52 = 0 ∧ (k * 2 ^ 52 + m) % 2 ^ 52 = m) ∨
    (2 ^ 52 ≤ m ∧ m < 2 ^ 53 ∧ (k * 2 ^ 52 + m) / 2 ^ 52 = k + 1 ∧ (k * 2 ^ 52 + m) % 2 ^ 52 = m - 2 ^ 52) ∨
    (m = 2 ^ 53 ∧ (k * 2 ^ 52 + m) / 2 ^ 52 = k + 2 ∧ (k * 2 ^ 52 + m) % 2 ^ 52 = 0) := by
  omega

theorem fVal_of_subnormal {a : F64} (he : fExp a = 0) : fVal a = signOf (fSign a) * fFrac a * ulp 0 := by
  simp [fVal_eq, ulp, fMant, fPow, he]

theorem fVal_of_normal {a : F64} {k : ℕ} (he : fExp a = k + 1) :
    fVal a = signOf (fSign a) * (fFrac a + 2 ^ 52 : ℕ) * ulp k := by
  have hp : fPow a = (k : ℤ) - 1074 := by
    simp only [fPow, he]
    omega
  rw [fVal_eq, ulp, hp, fMant, if_neg (by omega)]

section Pack

variable {k m : ℕ} (neg : Bool) (hb : k * 2 ^ 52 + m < 2047 * 2 ^ 52)
include hb

theorem finite_fPack : Safety.Finite (fPack neg (k * 2 ^ 52 + m)) := by
  rw [Safety.Finite, fExp_fPack neg (by omega)]
  omega

theorem fFrac_fPack_mod_two : fFrac (fPack neg (k * 2 ^ 52 + m)) % 2 = m % 2 := by
  rw [fFrac_fPack neg (by omega)]
  omega

/-- A packed significand stands for itself in units of its grid; a carry out of the significand does not change the value. -/
theorem fVal_fPack (hm : m ≤ 2 ^ 53) (hn : k = 0 ∨ 2 ^ 52 ≤ m) :
    fVal (fPack neg (k * 2 ^ 52 + m)) = signOf neg * m * ulp k := by
  have hs := fSign_fPack neg (m := k * 2 ^ 52 + m) (by omega)
  have he := fExp_fPack neg (m := k * 2 ^ 52 + m) (by omega)
  have hf := fFrac_fPack neg (m := k * 2 ^ 52 + m) (by omega)
  obtain ⟨-, hk, e, f⟩ | ⟨hl, -, e, f⟩ | ⟨hc, e, f⟩ := packed_fields hm hn <;> rw [e] at he <;> rw [f] at hf
  · rw [fVal_of_subnormal he, hs, hf, hk]
  · rw [fVal_of_normal he, hs, hf, Nat.sub_add_cancel hl]
  · rw [fVal_of_normal (k := k + 1) he, hs, hf, hc, ulp_succ]
    push_cast
    ring

end Pack

/-! ### Rounding -/

/-- The significand, the grid and the result that `fRound` gives a quotient that is not zero. -/
theorem fRound_cases (neg : Bool) {num den : ℕ} (e : ℤ) (hnum : num ≠ 0) (hden : den ≠ 0) :
    ∃ (k m : ℕ) (t : ℚ), OnGrid (num / den * 2 ^ e) k t ∧ IsRounded m t ∧
      fRound neg num den e = if 2047 * 2 ^ 52 ≤ k * 2 ^ 52 + m then fInf neg else fPack neg (k * 2 ^ 52 + m) := by
  obtain ⟨hlow, hup⟩ := floorLog2Ratio_spec hnum hden
  obtain ⟨l, hl⟩ : ∃ l, l = floorLog2Ratio num den := ⟨_, rfl⟩
  obtain ⟨q, hq⟩ : ∃ q, q = max (l + e - 52) (-1074) := ⟨_, rfl⟩
  rw [← hl] at hlow hup
  have hk : ((q + 1074).toNat : ℤ) - 1074 = q := by omega
  have ht : ((num * 2 ^ (e - q).toNat : ℕ) : ℚ) / (den * 2 ^ (q - e).toNat : ℕ) = num / den * 2 ^ (e - q) := by
    rw [two_zpow_eq_div, neg_sub, div_mul_div_comm]
    push_cast
    rfl
  refine ⟨(q + 1074).toNat, roundHalfEven (num * 2 ^ (e - q).toNat) (den * 2 ^ (q - e).toNat), num / den * 2 ^ (e - q),
    ⟨?_, by positivity, ?_, ?_⟩, ?_, ?_⟩
  · rw [ulp, hk, mul_assoc, ← zpow_add₀ two_ne_zero, sub_add_cancel]
  · calc (num : ℚ) / den * 2 ^ (e - q) < 2 ^ (l + 1) * 2 ^ (e - q) := by gcongr
      _ = 2 ^ (l + 1 + (e - q)) := (zpow_add₀ two_ne_zero _ _).symm
      _ ≤ 2 ^ (53 : ℤ) := zpow_le_zpow_right₀ one_le_two (by omega)
      _ = 2 ^ 53 := by norm_cast
  · by_cases h0 : (q + 1074).toNat = 0
    · exact .inl h0
    · right
      calc (2 : ℚ) ^ 52 = 2 ^ (l + (e - q)) := by rw [← zpow_natCast]; congr 1; omega
        _ = 2 ^ l * 2 ^ (e - q) := zpow_add₀ two_ne_zero _ _
        _ ≤ num / den * 2 ^ (e - q) := by gcongr
  · rw [← ht]
    exact roundHalfEven_isRounded _ (by positivity)
  · simp only [fRound, if_neg hnum, ← hl, ← hq]

section Grid

variable {y t : ℚ} {k m : ℕ} (hy : OnGrid y k t) (hm : IsRounded m t)
include hy hm

theorem OnGrid.rounded_le : m ≤ 2 ^ 53 := hm.le_of_lt (by exact_mod_cast hy.lt)

theorem OnGrid.rounded_normal : k = 0 ∨ 2 ^ 52 ≤ m := hy.normal.imp_right fun h => hm.le_of_le (by exact_mod_cast h)

/-- The magnitude bits reach the infinity pattern exactly from the overflow bound on. -/
theorem OnGrid.overflow_iff : 2047 * 2 ^ 52 ≤ k * 2 ^ 52 + m ↔ overflowBound ≤ y := by
  have hle := hy.rounded_le hm
  have hbound : overflowBound = (2 ^ 53 - 1 / 2) * ulp 2045 := by
    rw [overflowBound, ulp, show ((2045 : ℕ) : ℤ) - 1074 = (970 : ℕ) + 1 by norm_num, zpow_add_one₀ two_ne_zero, zpow_natCast]
    generalize (2 : ℚ) ^ 970 = u
    ring
  have hu := ulp_pos 2045
  rw [hbound, hy.value]
  obtain hk | hk | hk := lt_trichotomy k 2045
  · have hbelow : t * ulp k < (2 ^ 53 - 1 / 2) * ulp 2045 := by
      have hk1 : ulp (k + 1) ≤ ulp 2045 := ulp_mono hk
      rw [ulp_succ] at hk1
      have := mul_lt_mul_of_pos_right hy.lt (ulp_pos k)
      linarith
    exact iff_of_false (by omega) (not_le.2 hbelow)
  · rw [hk, mul_le_mul_iff_left₀ hu]
    obtain ⟨hnear, heven⟩ := hm
    have hd := abs_le.1 hnear
    constructor
    · intro h
      have : ((2 ^ 53 : ℕ) : ℚ) ≤ m := by exact_mod_cast (by omega : 2 ^ 53 ≤ m)
      push_cast at this
      linarith
    · intro h
      by_contra hlt
      have : (m : ℚ) + 1 ≤ (2 ^ 53 : ℕ) := by exact_mod_cast (by omega : m + 1 ≤ 2 ^ 53)
      push_cast at this
      have hm1 : (m : ℚ) = (2 ^ 53 - 1 : ℕ) := by push_cast; linarith
      have := heven (by rw [abs_of_nonpos] <;> linarith)
      have : m = 2 ^ 53 - 1 := by exact_mod_cast hm1
      omega
  · have hnorm := hy.rounded_normal hm
    have hk1 : ulp (2045 + 1) ≤ ulp k := ulp_mono hk
    rw [ulp_succ] at hk1
    have h52 : (2 : ℚ) ^ 52 ≤ t := hy.normal.resolve_left (by omega)
    have := mul_le_mul h52 hk1 (by linarith) hy.nonneg
    exact iff_of_true (by omega) (by linarith)

/-- The rounded significand is no farther from `t` than a value on the grid or below its normal numbers. -/
theorem OnGrid.nearest {u : ℚ} (hu : (∃ n : ℤ, u = n) ∨ (k ≠ 0 ∧ |u| < 2 ^ 52)) :
    |(m : ℚ) - t| ≤ |u - t| ∧ (|(m : ℚ) - t| = |u - t| → u ≠ m → m % 2 = 0) := by
  obtain ⟨n, rfl⟩ | ⟨hk, hlt⟩ := hu
  · exact hm.nearest_int n
  · have h52 := hy.normal.resolve_left hk
    have := hm.nearer_than_below (2 ^ 52) (u := u) (by push_cast; exact (abs_lt.1 hlt).2) (by push_cast; exact h52)
    exact ⟨this.le, fun h => absurd h this.ne⟩

/-- No finite value is nearer than the packed significand, and one as near leaves the even one (R9). -/
theorem OnGrid.nearestEven (neg : Bool) (hb : k * 2 ^ 52 + m < 2047 * 2 ^ 52) :
    NearestEven (fPack neg (k * 2 ^ 52 + m)) (signOf neg * y) := by
  intro c _
  have hpos := ulp_pos k
  have hdist (v : ℚ) : |signOf neg * v * ulp k - signOf neg * y| = |v - t| * ulp k := by
    rw [hy.value, ← mul_assoc, ← sub_mul, ← mul_sub, abs_mul, abs_mul, abs_signOf, one_mul, abs_of_pos hpos]
  obtain ⟨u, hu⟩ : ∃ u, u = signOf neg * fVal c / ulp k := ⟨_, rfl⟩
  have hc : fVal c = signOf neg * u * ulp k := by
    rw [hu, mul_assoc, div_mul_cancel₀ _ hpos.ne', ← mul_assoc, signOf_mul_self, one_mul]
  have hgrid : (∃ n : ℤ, u = n) ∨ (k ≠ 0 ∧ |u| < 2 ^ 52) := by
    refine (fVal_on_grid_or_below c k).imp ?_ (And.imp_right fun h => ?_)
    · rintro ⟨n, hn⟩
      refine ⟨(if neg then -1 else 1) * n, ?_⟩
      rw [hu, hn, ← mul_assoc, mul_div_cancel_right₀ _ hpos.ne', signOf]
      push_cast
      rfl
    · rw [hu, abs_div, abs_mul, abs_signOf, one_mul, abs_of_pos hpos, div_lt_iff₀ hpos]
      exact h
  obtain ⟨hle, heven⟩ := hy.nearest hm hgrid
  rw [fVal_fPack neg hb (hy.rounded_le hm) (hy.rounded_normal hm), fFrac_fPack_mod_two neg hb, hc, hdist, hdist,
    mul_le_mul_iff_left₀ hpos, mul_left_inj' hpos.ne']
  exact ⟨hle, fun htie hne => heven htie fun h => hne (by rw [h])⟩

end Grid

theorem overflowBound_pos : 0 < overflowBound := mul_pos (by norm_num) (pow_pos two_pos _)

theorem fZero_roundsTo (neg : Bool) : RoundsTo (fZero neg) 0 := by
  refine ⟨fun _ => ⟨by simp [Safety.Finite], fun c _ => ?_⟩, fun h => ?_⟩
  · simp
  · rw [abs_zero] at h
    exact absurd overflowBound_pos (not_lt.2 h)

/-- `fRound` rounds a signed quotient once, to nearest with ties to even, and to an infinity from the overflow bound on (R9). -/
theorem fRound_roundsTo (neg : Bool) (num : ℕ) {den : ℕ} (e : ℤ) (hden : den ≠ 0) :
    RoundsTo (fRound neg num den e) (signOf neg * (num / den * 2 ^ e)) := by
  by_cases hnum : num = 0
  · simp [fRound, hnum, fZero_roundsTo]
  · obtain ⟨k, m, t, hy, hm, heq⟩ := fRound_cases neg e hnum hden
    obtain ⟨y, hydef⟩ : ∃ y : ℚ, y = num / den * 2 ^ e := ⟨_, rfl⟩
    have hpos : 0 < y := by rw [hydef]; positivity
    rw [← hydef] at hy ⊢
    have hover := hy.overflow_iff hm
    rw [RoundsTo, abs_mul, abs_signOf, one_mul, abs_of_pos hpos]
    constructor
    · intro hlt
      have hb : ¬2047 * 2 ^ 52 ≤ k * 2 ^ 52 + m := fun h => not_le.2 hlt (hover.1 h)
      rw [heq, if_neg hb]
      exact ⟨finite_fPack neg (not_le.1 hb), hy.nearestEven hm neg (not_le.1 hb)⟩
    · intro hle
      rw [heq, if_pos (hover.2 hle)]
      congr 1
      cases neg
      · simpa using hpos.le
      · simpa using hpos

/-- The sign is kept, whatever the rounding gives. -/
theorem fSign_fRound (neg : Bool) (num : ℕ) {den : ℕ} (e : ℤ) (hden : den ≠ 0) : fSign (fRound neg num den e) = neg := by
  by_cases hnum : num = 0
  · simp [fRound, hnum]
  · obtain ⟨k, m, t, -, -, heq⟩ := fRound_cases neg e hnum hden
    rw [heq]
    split_ifs with hb
    · exact fSign_fInf neg
    · exact fSign_fPack neg (by omega)

/-! ### The operations on finite operands -/

section Finite

variable {a b : F64} (ha : Safety.Finite a) (hb : Safety.Finite b)
include ha hb

theorem fAdd_of_finite : fAdd a b = fAddFinite a b := by
  simp [fAdd, fAddWith, fIsNan_of_finite, fIsInf_of_finite, ha, hb]

theorem fSub_of_finite : fSub a b = fAddFinite a (fNeg b) := by
  simp [fSub, fAddWith, fIsNan_of_finite, fIsInf_of_finite, ha, hb]

theorem fMul_of_finite : fMul a b = fRound (fSign a != fSign b) (fMant a * fMant b) 1 (fPow a + fPow b) := by
  simp [fMul, fIsNan_of_finite, fIsInf_of_finite, ha, hb]

theorem fDiv_of_finite (h0 : fVal b ≠ 0) : fDiv a b = fRound (fSign a != fSign b) (fMant a) (fMant b) (fPow a - fPow b) := by
  have hz : fIsZero b = false := by rwa [Ne, fVal_eq_zero, Bool.not_eq_true] at h0
  simp [fDiv, fIsNan_of_finite, fIsInf_of_finite, ha, hb, hz]

theorem fMul_roundsTo : RoundsTo (fMul a b) (fVal a * fVal b) := by
  have hval : fVal a * fVal b =
      signOf (fSign a != fSign b) * ((fMant a * fMant b : ℕ) / (1 : ℕ) * 2 ^ (fPow a + fPow b)) := by
    rw [fVal_eq, fVal_eq, signOf_xor, zpow_add₀ two_ne_zero]
    push_cast
    ring
  rw [fMul_of_finite ha hb, hval]
  exact fRound_roundsTo _ _ _ one_ne_zero

theorem fSign_fMul : fSign (fMul a b) = (fSign a != fSign b) := by
  rw [fMul_of_finite ha hb]
  exact fSign_fRound _ _ _ one_ne_zero

theorem fDiv_roundsTo (h0 : fVal b ≠ 0) : RoundsTo (fDiv a b) (fVal a / fVal b) := by
  have hm : fMant b ≠ 0 := by rwa [Ne, fMant_eq_zero, ← fVal_eq_zero]
  have hval : fVal a / fVal b = signOf (fSign a != fSign b) * (fMant a / fMant b * 2 ^ (fPow a - fPow b)) := by
    rw [fVal_eq, fVal_eq, signOf_xor, zpow_sub₀ two_ne_zero, mul_div_mul_comm, mul_div_mul_comm, mul_assoc]
    congr 1
    cases fSign b <;> simp [div_eq_mul_inv]
  rw [fDiv_of_finite ha hb h0, hval]
  exact fRound_roundsTo _ _ _ hm

theorem fSign_fDiv (h0 : fVal b ≠ 0) : fSign (fDiv a b) = (fSign a != fSign b) := by
  have hm : fMant b ≠ 0 := by rwa [Ne, fMant_eq_zero, ← fVal_eq_zero]
  rw [fDiv_of_finite ha hb h0]
  exact fSign_fRound _ _ _ hm

end Finite

/-- The signed significand in units of 2 ^ `e` stands for the value. -/
theorem fScaled_mul {a : F64} {e : ℤ} (he : e ≤ fPow a) : (fScaled a e : ℚ) * 2 ^ e = fVal a := by
  have hp : (2 : ℚ) ^ fPow a = 2 ^ (fPow a - e).toNat * 2 ^ e := by
    rw [← zpow_natCast, Int.toNat_of_nonneg (by omega), ← zpow_add₀ two_ne_zero, sub_add_cancel]
  rw [fVal_eq, hp, fScaled, signOf]
  split <;> push_cast <;> ring

/-- The exact sum that `fAddFinite` forms, in units of the smaller last place. -/
theorem fAddFinite_sum (a b : F64) :
    fVal a + fVal b =
      ((fScaled a (min (fPow a) (fPow b)) + fScaled b (min (fPow a) (fPow b)) : ℤ) : ℚ) * 2 ^ min (fPow a) (fPow b) := by
  rw [Int.cast_add, add_mul, fScaled_mul (min_le_left _ _), fScaled_mul (min_le_right _ _)]

theorem signOf_mul_natAbs (z : ℤ) : signOf (decide (z < 0)) * z.natAbs = z := by
  rw [Nat.cast_natAbs, signOf]
  split_ifs with h <;> rw [decide_eq_true_eq] at h
  · rw [abs_of_neg h]
    push_cast
    ring
  · rw [abs_of_nonneg (not_lt.1 h), one_mul]

theorem fAddFinite_of_zero {a b : F64} (h : fVal a + fVal b = 0) : fAddFinite a b = fZero (fSign a && fSign b) := by
  rw [fAddFinite_sum, mul_eq_zero, or_iff_left (zpow_ne_zero _ two_ne_zero), Int.cast_eq_zero] at h
  simp only [fAddFinite, if_pos h]

theorem fAddFinite_roundsTo (a b : F64) : RoundsTo (fAddFinite a b) (fVal a + fVal b) := by
  by_cases h : fVal a + fVal b = 0
  · rw [fAddFinite_of_zero h, h]
    exact fZero_roundsTo _
  · rw [fAddFinite_sum, mul_eq_zero, or_iff_left (zpow_ne_zero _ two_ne_zero), Int.cast_eq_zero] at h
    rw [fAddFinite_sum]
    simp only [fAddFinite, if_neg h]
    generalize fScaled a (min (fPow a) (fPow b)) + fScaled b (min (fPow a) (fPow b)) = z
    have hval := fRound_roundsTo (decide (z < 0)) z.natAbs (min (fPow a) (fPow b)) one_ne_zero
    rwa [Nat.cast_one, div_one, ← mul_assoc, signOf_mul_natAbs] at hval

/-- Settles O38: every operation hands its exact result to one rounding, and that rounding is the nearest value. -/
theorem operationsRoundToNearestEven : Obligations.OperationsRoundToNearestEven := by
  unfold Obligations.OperationsRoundToNearestEven
  intro a b ha hb
  rw [fAdd_of_finite ha hb, fSub_of_finite ha hb, sub_eq_add_neg, ← fVal_fNeg, ← fSign_fNeg]
  exact ⟨fAddFinite_roundsTo a b, fAddFinite_roundsTo a (fNeg b), fMul_roundsTo ha hb,
    fun h0 => ⟨fDiv_roundsTo ha hb h0, fSign_fDiv ha hb h0⟩, fAddFinite_of_zero, fAddFinite_of_zero, fSign_fMul ha hb⟩

end Sys2Proof.Proofs
end

section
/-! PROOFS. The special operands of the binary64 operations, the conversion toward zero and the default coefficients (spec 00_scope.md
R7, R9, R10; 41_keystream_cascade.md R132; log 11, log 22). -/

namespace Sys2Proof.Proofs

open Sys2Proof.Machine Sys2Proof.Safety

/-! ### Addition and subtraction -/

section Sum

variable {nan a b : F64}

theorem fAddWith_nan (h : fIsNan a = true ∨ fIsNan b = true) : fAddWith nan a b = nan := by simp [fAddWith, h]

theorem fAddWith_fInf_opposite (x : Bool) : fAddWith nan (fInf x) (fInf !x) = nan := by simp [fAddWith]

theorem fAddWith_fInf_same (x : Bool) : fAddWith nan (fInf x) (fInf x) = fInf x := by simp [fAddWith]

theorem fAddWith_fInf_finite (x : Bool) (hb : Safety.Finite b) : fAddWith nan (fInf x) b = fInf x := by
  simp [fAddWith, fIsNan_of_finite hb, fIsInf_of_finite hb]

theorem fAddWith_finite_fInf (x : Bool) (hb : Safety.Finite b) : fAddWith nan b (fInf x) = fInf x := by
  simp [fAddWith, fIsNan_of_finite hb, fIsInf_of_finite hb]

end Sum

/-! ### Products and quotients with a NaN, an infinity or a zero -/

theorem fMul_nan {a b : F64} (h : fIsNan a = true ∨ fIsNan b = true) : fMul a b = fNan .mul a b := by simp [fMul, h]

theorem fDiv_nan {a b : F64} (h : fIsNan a = true ∨ fIsNan b = true) : fDiv a b = fNan .div a b := by simp [fDiv, h]

section Infinity

variable (x y : Bool)

theorem fMul_fZero_fInf : fMul (fZero x) (fInf y) = fNan .mul (fZero x) (fInf y) := by simp [fMul]

theorem fMul_fInf_fZero : fMul (fInf x) (fZero y) = fNan .mul (fInf x) (fZero y) := by simp [fMul]

theorem fMul_fInf_fInf : fMul (fInf x) (fInf y) = fInf (x != y) := by simp [fMul]

theorem fDiv_fZero_fZero : fDiv (fZero x) (fZero y) = fNan .div (fZero x) (fZero y) := by simp [fDiv]

theorem fDiv_fInf_fInf : fDiv (fInf x) (fInf y) = fNan .div (fInf x) (fInf y) := by simp [fDiv]

variable {b : F64} (hb : Safety.Finite b)
include hb

theorem fDiv_fInf_finite : fDiv (fInf x) b = fInf (x != fSign b) := by
  simp [fDiv, fIsNan_of_finite hb, fIsInf_of_finite hb]

theorem fDiv_finite_fInf : fDiv b (fInf x) = fZero (fSign b != x) := by
  simp [fDiv, fIsNan_of_finite hb, fIsInf_of_finite hb]

variable (h0 : fIsZero b = false)
include h0

theorem fMul_fInf_finite : fMul (fInf x) b = fInf (x != fSign b) := by
  simp [fMul, fIsNan_of_finite hb, h0]

theorem fMul_finite_fInf : fMul b (fInf x) = fInf (fSign b != x) := by
  simp [fMul, fIsNan_of_finite hb, fIsInf_of_finite hb, h0]

theorem fDiv_finite_fZero : fDiv b (fZero x) = fInf (fSign b != x) := by
  simp [fDiv, fIsNan_of_finite hb, fIsInf_of_finite hb, h0]

end Infinity

/-- Settles O39, operation by operation. -/
theorem nansAndInfinitiesAreCarriedThrough : Obligations.NansAndInfinitiesAreCarriedThrough := by
  unfold Obligations.NansAndInfinitiesAreCarriedThrough
  refine ⟨fun a b h => ?_, fun x y => ?_, fun x y => ?_, fun x b hb => ?_⟩
  · have hsub : fSub a b = fNan .sub a b := fAddWith_nan (by rwa [fIsNan_fNeg])
    rw [hsub, fAdd, fAddWith_nan h, fMul_nan h, fDiv_nan h]
    simp
  · rw [fAdd, fAddWith_fInf_opposite, fSub, fNeg_fInf, fAddWith_fInf_opposite, fMul_fZero_fInf, fMul_fInf_fZero, fDiv_fZero_fZero,
      fDiv_fInf_fInf]
    simp
  · refine ⟨fAddWith_fInf_same x, ?_, fMul_fInf_fInf x y⟩
    rw [fSub, fNeg_fInf, Bool.not_not, fAddWith_fInf_same]
  · have hneg : Safety.Finite (fNeg b) := by rwa [Safety.Finite, fExp_fNeg]
    refine ⟨fAddWith_fInf_finite x hb, fAddWith_finite_fInf x hb, fAddWith_fInf_finite x hneg, ?_, fDiv_fInf_finite x hb,
      fDiv_finite_fInf x hb, fun h => ?_⟩
    · rw [fSub, fNeg_fInf, fAddWith_finite_fInf _ hb]
    · rw [Ne, fVal_eq_zero, Bool.not_eq_true] at h
      exact ⟨fMul_fInf_finite x hb h, fMul_finite_fInf x hb h, fDiv_finite_fZero x hb h⟩

/-! ### Conversion toward zero -/

/-- A value rounded toward zero. -/
def towardZero (x : ℚ) : ℤ := if 0 ≤ x then ⌊x⌋ else ⌈x⌉

theorem towardZero_of_nonneg {x : ℚ} (h : 0 ≤ x) : towardZero x = ⌊x⌋ := if_pos h

theorem towardZero_neg {x : ℚ} (h : 0 ≤ x) : towardZero (-x) = -⌊x⌋ := by
  obtain rfl | hpos := h.eq_or_lt
  · simp [towardZero]
  · rw [towardZero, if_neg (by linarith), Int.ceil_neg]

@[simp] theorem towardZero_intCast (n : ℤ) : towardZero n = n := by simp [towardZero]

theorem abs_towardZero_le (x : ℚ) : |(towardZero x : ℚ)| ≤ |x| := by
  obtain h | h := le_total 0 x
  · rw [towardZero_of_nonneg h, abs_of_nonneg h, abs_of_nonneg (by exact_mod_cast Int.floor_nonneg.2 h)]
    exact Int.floor_le x
  · obtain ⟨y, rfl⟩ : ∃ y, x = -y := ⟨-x, (neg_neg x).symm⟩
    have hy : 0 ≤ y := neg_nonpos.1 h
    rw [towardZero_neg hy, abs_neg, Int.cast_neg, abs_neg, abs_of_nonneg hy, abs_of_nonneg (by exact_mod_cast Int.floor_nonneg.2 hy)]
    exact Int.floor_le y

/-- `fTruncInt` takes the floor of the value's magnitude. -/
theorem fTruncInt_eq_floor (a : F64) : fTruncInt a = if fSign a then -⌊|fVal a|⌋ else ⌊|fVal a|⌋ := by
  have hfloor : ⌊|fVal a|⌋ = ((fMant a * 2 ^ (fPow a).toNat / 2 ^ (-fPow a).toNat : ℕ) : ℤ) := by
    rw [abs_fVal, two_zpow_eq_div, ← mul_div_assoc]
    exact_mod_cast Rat.floor_natCast_div_natCast _ _
  rw [hfloor, fTruncInt]
  by_cases hp : 0 ≤ fPow a
  · simp [if_pos hp, show (-fPow a).toNat = 0 by omega]
  · simp [if_neg hp, show (fPow a).toNat = 0 by omega]

/-- `fTruncInt` rounds toward zero (R10). -/
theorem fTruncInt_eq_towardZero (a : F64) : fTruncInt a = towardZero (fVal a) := by
  have habs : fVal a = signOf (fSign a) * |fVal a| := by rw [abs_fVal, fVal_eq, mul_assoc]
  rw [fTruncInt_eq_floor, habs, abs_mul, abs_signOf, one_mul, abs_abs]
  cases fSign a
  · simp [towardZero_of_nonneg]
  · simp [towardZero_neg]

/-- A finite value is an integer, or too small for its conversion to leave the signed 64-bit range. -/
theorem fVal_integer_or_small (a : F64) : (∃ n : ℤ, fVal a = n) ∨ |fVal a| < 2 ^ 63 := by
  have hone : ulp 1074 = 1 := by simp [ulp]
  refine (fVal_on_grid_or_below a 1074).imp (fun ⟨n, hn⟩ => ⟨n, by rw [hn, hone, mul_one]⟩) fun ⟨_, h⟩ => ?_
  rw [hone] at h
  linarith

/-- The truncated value is in range exactly when the value is. -/
theorem towardZero_in_range (a : F64) :
    (-(2 ^ 63 : ℤ) ≤ towardZero (fVal a) ∧ towardZero (fVal a) < 2 ^ 63) ↔ (-(2 ^ 63 : ℚ) ≤ fVal a ∧ fVal a < 2 ^ 63) := by
  obtain ⟨n, hn⟩ | hsmall := fVal_integer_or_small a
  · rw [hn, towardZero_intCast]
    exact_mod_cast Iff.rfl
  · have ht : |(towardZero (fVal a) : ℚ)| < 2 ^ 63 := (abs_towardZero_le _).trans_lt hsmall
    have ht' : |towardZero (fVal a)| < 2 ^ 63 := by exact_mod_cast ht
    rw [abs_lt] at hsmall ht'
    exact iff_of_true ⟨ht'.1.le, ht'.2⟩ ⟨hsmall.1.le, hsmall.2⟩

theorem trunc64_of_not_finite {a : F64} (h : ¬Safety.Finite a) : trunc64 a = none := if_pos (not_not.1 h)

/-- `trunc64` by the value of its operand (R10). -/
theorem trunc64_of_finite {a : F64} (h : Safety.Finite a) :
    trunc64 a =
      if -(2 ^ 63 : ℚ) ≤ fVal a ∧ fVal a < 2 ^ 63 then some (BitVec.ofInt 64 (towardZero (fVal a))) else none := by
  rw [trunc64, if_neg h, fTruncInt_eq_towardZero]
  exact if_congr (towardZero_in_range a) rfl rfl

/-- Settles O40: the truncated value is in range with the value, and there the 64-bit pattern holds it. -/
theorem truncGoesTowardZero : Obligations.TruncGoesTowardZero := by
  unfold Obligations.TruncGoesTowardZero
  intro a
  constructor
  · intro hfin hlow hup
    obtain ⟨hl, hu⟩ := (towardZero_in_range a).2 ⟨hlow, hup⟩
    refine ⟨BitVec.ofInt 64 (towardZero (fVal a)), ?_, BitVec.toInt_ofInt_eq_self (by decide) hl hu⟩
    rw [trunc64_of_finite hfin, if_pos ⟨hlow, hup⟩]
  · intro hout
    by_cases hfin : Safety.Finite a
    · rw [trunc64_of_finite hfin, if_neg]
      rintro ⟨hlow, hup⟩
      obtain h | h | h := hout
      · exact h hfin
      · exact not_le.2 h hlow
      · exact not_le.2 hup h
    · exact trunc64_of_not_finite hfin

/-! ### The default coefficients -/

/-- R7: β rounded before the subtraction gives another pattern than the rounding of 1 − β. -/
theorem roundedBeta_gives_other_cZ2 : fSub (fOfNat 1) (fOfRat (8 / 3)) = 0xBFFAAAAAAAAAAAAA#64 := by decide +kernel

/-- Settles O42: the exact expressions are the rationals -9, 10, 28, 2, -5/3 and 1/100, and each is rounded by evaluation. -/
theorem defaultCoefficientsAreRounded : Obligations.DefaultCoefficientsAreRounded := by
  unfold Obligations.DefaultCoefficientsAreRounded
  have hX0 : (0xC022000000000000#64 : F64) = fOfRat (1 - 10) := by decide +kernel
  have hY0 : (0x4024000000000000#64 : F64) = fOfRat 10 := by decide +kernel
  have hX1 : (0x403C000000000000#64 : F64) = fOfRat 28 := by decide +kernel
  have hY1 : (0x4000000000000000#64 : F64) = fOfRat 2 := by decide +kernel
  have hZ2 : (0xBFFAAAAAAAAAAAAB#64 : F64) = fOfRat (1 - 8 / 3) := by decide +kernel
  have hdt : (0x3F847AE147AE147B#64 : F64) = fOfRat (1 / 100) := by decide +kernel
  have hbeta : ({ num := 8, den := 3 } : Rat) = 8 / 3 := by decide +kernel
  rw [hbeta]
  exact ⟨hX0, hY0, hX1, hY1, hZ2, hdt, roundedBeta_gives_other_cZ2⟩

end Sys2Proof.Proofs
end

section
/-! PROOFS. What a step is made of: the elementary changes of the state, and that every step of the machine is a sequence of them (spec
10_state.md R20 to R27; 60_exceptions.md R200 to R204). An invariant is then proved change by change. -/

namespace Sys2Proof.Proofs

open Sys2Proof.Machine Sys2Proof.Safety

/-- One elementary change that the engine makes while it runs a command. -/
inductive EngineChange : State → State → Prop where
  /-- a source byte comes into flight (R64) -/
  | readsSource (s : State) (b : Byte) (busy : s.busy = true) : EngineChange s { s with held := some b }
  /-- a key byte goes into KB (R110) -/
  | readsKey (s : State) (b : Byte) : EngineChange s { s with kb := s.kb.setIfInBounds s.idx.toNat b, idx := s.idx + 1 }
  /-- a single-block command makes its transient state (R23, R152) -/
  | derivesTs (s : State) (busy : s.busy = true) : EngineChange s (deriveTs s)
  /-- a single-block command writes a byte and advances TS (R152) -/
  | writesBlock (s : State) (g : Gen) (a : Nat) (v : Byte) (busy : s.busy = true)
      (cycle : g = updateCycle s.setup ⟨transient s, s.nx, s.draws⟩) :
      EngineChange s
        { s with
          nx := g.nx, draws := g.draws, mem := s.mem.write a v, held := none, idx := s.idx + 1, ts := some g.chaos }
  /-- CHAIN_CRYPT writes a byte, advances CS and counts the cycle (R175) -/
  | writesChain (s : State) (g : Gen) (a : Nat) (v : Byte) (cycle : g = updateCycle s.setup ⟨s.cs, s.nx, s.draws⟩) :
      EngineChange s
        { s with
          nx := g.nx, draws := g.draws, mem := s.mem.write a v, held := none, idx := s.idx + 1, cs := g.chaos,
          cycles := s.cycles + 1 }
  /-- a byte is converted whose write then gets a bus error (R208) -/
  | converts (s : State) (nx : Bool) (draws : Nat) : EngineChange s { s with nx := nx, draws := draws }
  /-- a bus error in CHAIN_CRYPT ends the chain (R208) -/
  | losesChain (s : State) : EngineChange s (loseChain s)
  /-- KB becomes the key (R110, R111) -/
  | commitsKey (s : State) : EngineChange s (commitKey s)
  /-- a chain is constructed from the key (R170, R171) -/
  | initsChain (s : State) (dir : Dir) (key : s.keyValid = true) :
      EngineChange s { s with cs := keySchedule s.setup s.key, chainDir := dir, cycles := 0, chainValid := true }
  /-- CLEAR (R191) -/
  | clears (s : State) : EngineChange s (clearKeyAndChain s)
  /-- completion (R203) -/
  | completes (s : State) : EngineChange s (complete s)
  /-- completion with an error that R205 lists (R204) -/
  | raises (s : State) (r : Report) (listed : (r.err, r.arg) ∈ reportable) : EngineChange s (raiseError r s)

/-- One elementary change of the state, by the engine, a host, another master or reset. -/
inductive Change : State → State → Prop where
  /-- the engine's (R202) -/
  | engine {s t : State} (h : EngineChange s t) : Change s t
  /-- acceptance (R200) -/
  | accepts (s : State) (w : Word) (idle : s.busy = false) : Change s (accept w s)
  /-- a write to STATUS (R33) -/
  | writesStatus (s : State) (v : Word) : Change s (writeStatus v s)
  /-- a write to CTRL or an operand register, or a dropped write to CMD (R31, R35 to R37, R201) -/
  | writesRegister (s : State) (ie ovr : Bool) (ops : Operands) : Change s { s with ie := ie, ovr := ovr, ops := ops }
  /-- a host or another master writes memory or the host's caches (R73, R77, R251) -/
  | writesMemory (s : State) (m : Memory) (hostCache : List CacheLine) (canonical : s.mem.wf = true → m.wf = true) :
      Change s { s with mem := m, hostCache := hostCache }
  /-- the model's own fields, and the host's caches as a load leaves them (R43, R77; log 3) -/
  | books (s : State) (hostCache : List CacheLine) (inputs : List Event) (replies : List Reply) (draws : Nat) :
      Change s { s with hostCache := hostCache, inputs := inputs, replies := replies, draws := draws }
  /-- reset (R240) -/
  | resets (s : State) : Change s (resetEngine s)

/-- Elementary changes of a running command one after another. -/
abbrev EngineChanges : State → State → Prop := Relation.ReflTransGen EngineChange

/-- Elementary changes one after another. -/
abbrev Changes : State → State → Prop := Relation.ReflTransGen Change

theorem EngineChange.changes {s t : State} (h : EngineChange s t) : EngineChanges s t := .single h

theorem Change.changes {s t : State} (h : Change s t) : Changes s t := .single h

theorem EngineChanges.toChanges {s t : State} (h : EngineChanges s t) : Changes s t :=
  Relation.ReflTransGen.mono (fun _ _ => Change.engine) _ _ h

/-! ### The reports of the checks -/

theorem mem_of_firstFailed {l : List (Bool × Report)} {r : Report} (h : firstFailed l = some r) : (true, r) ∈ l := by
  induction l with
  | nil => simp [firstFailed_nil] at h
  | cons p l ih =>
    obtain ⟨b, q⟩ := p
    rw [firstFailed_cons] at h
    split at h
    · simp_all
    · exact List.mem_cons_of_mem _ (ih h)

/-- Checks whose reports R205 lists report what R205 lists. -/
theorem firstFailed_listed {l : List (Bool × Report)} {r : Report} (h : firstFailed l = some r)
    (hl : ∀ p ∈ l, (p.2.err, p.2.arg) ∈ reportable) : (r.err, r.arg) ∈ reportable :=
  hl _ (mem_of_firstFailed h)

section Commands

variable {s t : State}

theorem checkKeyLoad_listed {r : Report} (h : checkKeyLoad s = some r) : (r.err, r.arg) ∈ reportable :=
  firstFailed_listed h (by simp [reportable])

theorem checkBlock_listed {r : Report} (h : checkBlock s = some r) : (r.err, r.arg) ∈ reportable :=
  firstFailed_listed h (by simp [reportable])

theorem checkChainCrypt_listed {r : Report} (h : checkChainCrypt s = some r) : (r.err, r.arg) ∈ reportable :=
  firstFailed_listed h (by simp [reportable])

/-! ### One access -/

theorem keyByte_going (h : keyByte s = .going t) : EngineChange s t ∧ t.busy = s.busy := by
  obtain ⟨-, e⟩ | ⟨-, e⟩ | ⟨b, -, e⟩ := keyByte_cases s <;> rw [e] at h <;> cases h
  exact ⟨.readsKey s b, rfl⟩

theorem keyByte_ended (h : keyByte s = .ended t) : EngineChange s t := by
  obtain ⟨-, e⟩ | ⟨-, e⟩ | ⟨b, -, e⟩ := keyByte_cases s <;> rw [e] at h <;> cases h
  exact .raises s _ (by simp [reportable])

/-- A performed engine write writes the byte. -/
theorem memWrite_data {a : Nat} {v : Byte} {m : Memory} (h : memWrite s a v = .data m) : m = s.mem.write a v := by
  obtain ⟨-, e⟩ | ⟨-, -, e⟩ | ⟨-, -, e⟩ := memWrite_cases s a v <;> rw [e] at h <;> cases h
  rfl

variable {dir : Dir} {c : Chaotic} {put : Chaotic → State → State} {lose : State → State}

/-- A data access that goes on has read a byte or has written one and put the advanced state. -/
theorem dataAccess_going (h : dataAccess dir c put lose s = .going t) :
    (∃ b, t = { s with held := some b }) ∨
    ∃ g a v, g = updateCycle s.setup ⟨c, s.nx, s.draws⟩ ∧
      t = put g.chaos { s with nx := g.nx, draws := g.draws, mem := s.mem.write a v, held := none, idx := s.idx + 1 } := by
  cases hh : s.held with
  | none =>
    rw [dataAccess_read hh] at h
    obtain ⟨-, e⟩ | ⟨-, e⟩ | ⟨b, -, e⟩ := readAccess_cases lose s <;> rw [e] at h <;> cases h
    exact .inl ⟨b, rfl⟩
  | some b =>
    rw [dataAccess_write hh] at h
    obtain ⟨-, e⟩ | ⟨-, e⟩ | ⟨m, hm, e⟩ := writeAccess_cases dir c put lose b s <;> rw [e] at h <;> cases h
    obtain rfl := memWrite_data hm
    exact .inr ⟨_, _, _, rfl, rfl⟩

/-- A data access that ends its command has raised a bus error, on a read or after a byte's conversions. -/
theorem dataAccess_ended (h : dataAccess dir c put lose s = .ended t) :
    ∃ r u, (r.err, r.arg) ∈ reportable ∧ EngineChanges s u ∧ t = raiseError r (lose u) := by
  cases hh : s.held with
  | none =>
    rw [dataAccess_read hh] at h
    obtain ⟨-, e⟩ | ⟨-, e⟩ | ⟨b, -, e⟩ := readAccess_cases lose s <;> rw [e] at h <;> cases h
    exact ⟨_, s, by simp [reportable], .refl, rfl⟩
  | some b =>
    rw [dataAccess_write hh] at h
    obtain ⟨-, e⟩ | ⟨-, e⟩ | ⟨m, -, e⟩ := writeAccess_cases dir c put lose b s <;> rw [e] at h <;> cases h
    exact ⟨_, _, by simp [reportable], (EngineChange.converts s _ _).changes, rfl⟩

theorem blockAccess_going (hb : s.busy = true) (h : blockAccess dir s = .going t) : EngineChange s t ∧ t.busy = s.busy := by
  obtain ⟨b, rfl⟩ | ⟨g, a, v, hg, rfl⟩ := dataAccess_going h
  · exact ⟨.readsSource s b hb, rfl⟩
  · exact ⟨.writesBlock s g a v hb hg, rfl⟩

theorem blockAccess_ended (h : blockAccess dir s = .ended t) : EngineChanges s t := by
  obtain ⟨r, u, hr, hu, rfl⟩ := dataAccess_ended h
  exact hu.tail (.raises u r hr)

theorem chainAccess_going (hb : s.busy = true) (h : chainAccess s = .going t) : EngineChange s t ∧ t.busy = s.busy := by
  obtain ⟨b, rfl⟩ | ⟨g, a, v, hg, rfl⟩ := dataAccess_going h
  · exact ⟨.readsSource s b hb, rfl⟩
  · exact ⟨.writesChain s g a v hg, rfl⟩

theorem chainAccess_ended (h : chainAccess s = .ended t) : EngineChanges s t := by
  obtain ⟨r, u, hr, hu, rfl⟩ := dataAccess_ended h
  exact (hu.tail (.losesChain u)).tail (.raises _ r hr)

/-! ### A command, whole or a turn of it -/

/-- The command that ran in `s` still runs in `u`. -/
abbrev RunsOn (s u : State) : Prop := EngineChanges s u ∧ u.busy = true

/-- A turn of work is a sequence of changes when each access is, and the completion. The engine stays busy while the command
goes on. -/
theorem workFor_changes {access : State → Work} {commit : State → State} {budget remaining : Nat}
    (going : ∀ u v, u.busy = true → access u = .going v → EngineChange u v ∧ v.busy = u.busy)
    (ended : ∀ u v, access u = .ended v → EngineChanges u v) (commits : ∀ u, EngineChanges u (commit u))
    (hb : s.busy = true) (h : workFor access commit budget remaining s = .next t) : EngineChanges s t := by
  have keep (_ : Nat) (u v : State) : RunsOn s u → access u = .going v → RunsOn s v := by
    rintro ⟨hu, hub⟩ huv
    obtain ⟨hc, hvb⟩ := going u v hub huv
    exact ⟨hu.tail hc, hvb.trans hub⟩
  obtain ⟨u, hr, ⟨-, e⟩ | ⟨-, e⟩⟩ | ⟨u, hr, e⟩ | ⟨f, -, e⟩ := workFor_cases access commit budget remaining s <;>
    rw [e] at h <;> cases h
  · obtain ⟨hu, -⟩ := runAccesses_going_induction (P := fun _ => RunsOn s) keep _ s u ⟨.refl, hb⟩ hr
    exact (hu.trans (commits u)).tail (.completes _)
  · exact (runAccesses_going_induction (P := fun _ => RunsOn s) keep _ s t ⟨.refl, hb⟩ hr).1
  · obtain ⟨-, u, ⟨hu, -⟩, hut⟩ := runAccesses_ended_induction (P := fun _ => RunsOn s) keep _ s t ⟨.refl, hb⟩ hr
    exact hu.trans (ended u t hut)

theorem validated_changes {check : Option Report} {buffers : List (Nat × Nat)} {work : Answer}
    (fails : ∀ r, check = some r → (r.err, r.arg) ∈ reportable) (works : work = .next t → EngineChanges s t)
    (h : validated check buffers s work = .next t) : EngineChanges s t := by
  obtain ⟨r, hr, e⟩ | ⟨-, -, e⟩ | ⟨-, -, e⟩ := validated_cases check buffers s work <;> rw [e] at h
  · cases h
    exact (EngineChange.raises s r (fails r hr)).changes
  · cases h
  · exact works h

theorem keyLoadFor_changes {n : Nat} (hb : s.busy = true) (h : keyLoadFor n s = .next t) : EngineChanges s t :=
  validated_changes (fun _ => checkKeyLoad_listed)
    (workFor_changes (fun _ _ _ => keyByte_going) (fun _ _ h => (keyByte_ended h).changes)
      (fun u => (EngineChange.commitsKey u).changes) hb) h

theorem blockFor_changes {n : Nat} (hb : s.busy = true) (h : blockFor dir n s = .next t) : EngineChanges s t :=
  validated_changes (fun _ => checkBlock_listed)
    (fun hw => .head (.derivesTs s hb)
      (workFor_changes (fun _ _ => blockAccess_going) (fun _ _ => blockAccess_ended) (fun _ => .refl) hb hw)) h

theorem chainCryptFor_changes {n : Nat} (hb : s.busy = true) (h : chainCryptFor n s = .next t) : EngineChanges s t :=
  validated_changes (fun _ => checkChainCrypt_listed)
    (workFor_changes (fun _ _ => chainAccess_going) (fun _ _ => chainAccess_ended) (fun _ => .refl) hb) h

theorem chainInit_changes (h : chainInit dir s = .next t) : EngineChanges s t := by
  obtain ⟨-, e⟩ | ⟨hk, e⟩ := chainInit_cases dir s <;> rw [e] at h <;> cases h
  · exact (EngineChange.raises s _ (by simp [reportable])).changes
  · exact (EngineChange.initsChain s dir hk).changes.tail (.completes _)

theorem raiseIllegal_change (s : State) : EngineChange s (raiseIllegal s) := .raises s _ (by simp [reportable])

theorem exec_changes {i : Instr} (hb : s.busy = true) (h : exec i s = .next t) : EngineChanges s t := by
  cases i with
  | nop => cases h; exact (EngineChange.completes s).changes
  | keyLoad => exact keyLoadFor_changes hb h
  | blockEnc => exact blockFor_changes hb h
  | blockDec => exact blockFor_changes hb h
  | chainInitEnc => exact chainInit_changes h
  | chainInitDec => exact chainInit_changes h
  | chainCrypt => exact chainCryptFor_changes hb h
  | clear => cases h; exact (EngineChange.clears s).changes.tail (.completes _)
  | illegalOpc08 | illegalOpc10 | illegalOpc20 | illegalOpc40 | illegalOpc80 | illegalRsv =>
    cases h; exact (raiseIllegal_change s).changes

theorem unlessZero_changes {n : Nat} {whole : Answer} (hw : whole = .next t → EngineChanges s t)
    (h : unlessZero n whole s = .next t) : EngineChanges s t := by
  cases n with
  | zero => cases h; exact .refl
  | succ n => exact hw h

theorem execFor_changes {n : Nat} {i : Instr} (hb : s.busy = true) (h : execFor n i s = .next t) : EngineChanges s t := by
  cases i with
  | keyLoad => exact keyLoadFor_changes hb h
  | blockEnc => exact blockFor_changes hb h
  | blockDec => exact blockFor_changes hb h
  | chainCrypt => exact chainCryptFor_changes hb h
  | nop | clear | chainInitEnc | chainInitDec | illegalOpc08 | illegalOpc10 | illegalOpc20 | illegalOpc40 | illegalOpc80
  | illegalRsv => exact unlessZero_changes (exec_changes hb) h

theorem engineTurn_changes {n : Nat} (h : engineTurn n s = .next t) : EngineChanges s t := by
  unfold engineTurn at h
  split at h
  · next hb => exact execFor_changes hb h
  · cases h; exact .refl

theorem engineAlone_changes (h : engineAlone s = .next t) : EngineChanges s t := by
  unfold engineAlone at h
  split at h
  · next hb => exact exec_changes hb h
  · cases h; exact .refl

end Commands

/-! ### Events and steps -/

section Events

variable {s t : State}

theorem writeCmd_change (v : Word) (s : State) : Change s (writeCmd v s) := by
  unfold writeCmd
  split
  · exact .writesRegister s s.ie true s.ops
  · next hb => exact .accepts s v (by simpa using hb)

theorem writeReg_change (r : Reg) (v : Word) (s : State) : Change s (writeReg r v s) := by
  cases r with
  | cmd => exact writeCmd_change v s
  | status => exact .writesStatus s v
  | _ => exact .writesRegister s _ s.ovr _

theorem writeOffset_changes (off : BitVec 8) (v : Word) (s : State) : Changes s (writeOffset off v s) := by
  unfold writeOffset
  split
  · exact .refl
  · exact (writeReg_change _ v s).changes

theorem regRead_changes {w : Width} {off : BitVec 8} (h : regRead w off s = .next t) : Changes s t := by
  unfold regRead at h
  split at h <;> cases h
  exact (Change.books s s.hostCache s.inputs _ _).changes

theorem regWrite_changes {w : Width} {off : BitVec 8} {v : Word} (h : regWrite w off v s = .next t) : Changes s t := by
  unfold regWrite at h
  split at h <;> cases h
  exact writeOffset_changes off v s

theorem hostStore_changes {a : Word} {v : Byte} (h : hostStore a v s = .next t) : Changes s t := by
  unfold hostStore at h
  split at h
  · cases h
  · split at h <;> cases h
    · exact (Change.writesMemory s _ s.hostCache (Memory.wf_write _ _)).changes
    · exact (Change.writesMemory s s.mem _ id).changes

theorem hostLoad_changes {a : Word} (h : hostLoad a s = .next t) : Changes s t := by
  unfold hostLoad at h
  split at h <;> cases h
  exact (Change.books s _ s.inputs _ s.draws).changes

theorem hostClean_changes (a : Word) (s : State) : Changes s (hostClean a s) := by
  unfold hostClean
  split
  · split
    · exact (Change.writesMemory s _ _ (Memory.wf_write _ _)).changes
    · exact .refl
  · exact .refl

theorem busWrite_changes {a : Word} {v : Byte} (h : busWrite a v s = .next t) : Changes s t := by
  unfold busWrite at h
  split at h <;> cases h
  exact (Change.writesMemory s _ s.hostCache (Memory.wf_write _ _)).changes

theorem happen_changes {e : Event} (h : happen e s = .next t) : Changes s t := by
  cases e with
  | regRead w off => exact regRead_changes h
  | regWrite w off v => exact regWrite_changes h
  | hostStore a v => exact hostStore_changes h
  | hostLoad a => exact hostLoad_changes h
  | hostClean a => cases h; exact hostClean_changes a s
  | hostInvalidate a => cases h; exact (Change.writesMemory s s.mem _ id).changes
  | busWrite a v => exact busWrite_changes h
  | reset => cases h; exact (Change.resets s).changes
  | engine n => exact (engineTurn_changes h).toChanges

/-- Every step, of any agent, is a sequence of elementary changes. -/
theorem step_changes (h : step s = .next t) : Changes s t := by
  unfold step at h
  split at h
  · exact .head (.books s s.hostCache _ s.replies s.draws) (happen_changes h)
  · exact (engineAlone_changes h).toChanges

/-- What every change keeps, changes one after another keep. -/
theorem reflTransGen_keeps {R : State → State → Prop} {P : State → Prop} (keep : ∀ u v, R u v → P u → P v)
    (h : Relation.ReflTransGen R s t) (hs : P s) : P t := by
  induction h with
  | refl => exact hs
  | tail _ hc ih => exact keep _ _ hc ih

/-- What every elementary change keeps, every step keeps. -/
theorem step_keeps {P : State → Prop} (keep : ∀ u v, Change u v → P u → P v) (hs : P s) (h : step s = .next t) : P t :=
  reflTransGen_keeps keep (step_changes h) hs

end Events

end Sys2Proof.Proofs
end

section
/-! PROOFS. The invariants of the state: alpha is the selected position (spec 10_state.md R21), MachineInv, and the tie of a live
chain to its key (10_state.md R25). -/

namespace Sys2Proof.Proofs

open Sys2Proof.Machine Sys2Proof.Safety

/-! ### The projection -/

theorem get_ofFn {α : Type} (f : Fin 3 → α) : ∀ i, (Three.ofFn f).get i = f i
  | 0 => rfl
  | 1 => rfl
  | 2 => rfl

theorem keySchedule_alpha (c : Setup) (key : Vector Byte 18) : AlphaMatches (keySchedule c key) := rfl

theorem updateCycle_alpha (c : Setup) (g : Gen) : AlphaMatches (updateCycle c g).chaos := rfl

theorem alpha_get_of_alphaMatches {c : Chaotic} (h : AlphaMatches c) (i : Fin 3) :
    c.alpha.get i = c.pos.get (c.mix.get i) := by
  rw [h, project, get_ofFn]

/-- Settles O35, from the projection that ends the key schedule and every cycle. -/
theorem alphaIsTheSelectedPosition : Obligations.AlphaIsTheSelectedPosition := by
  unfold Obligations.AlphaIsTheSelectedPosition
  exact fun c key g i => ⟨alpha_get_of_alphaMatches (keySchedule_alpha c key) i, alpha_get_of_alphaMatches (updateCycle_alpha c g) i⟩

/-! ### MachineInv -/

theorem machineInv_reset : MachineInv State.reset where
  memory := rfl
  chainHasKey := nofun
  chainAlpha := nofun
  transientAlpha := nofun
  transientBusy := nofun
  heldBusy := nofun
  busyNotDone := nofun
  busyNoReport := nofun
  noKeyZero := fun _ => rfl
  report := by simp [reportable, State.reset]

theorem chainFollowsKey_reset : ChainFollowsKey State.reset := nofun

/-- Settles O8: no chain is live after reset and no command runs. -/
theorem resetMeetsInvariants : Obligations.ResetMeetsInvariants := by
  unfold Obligations.ResetMeetsInvariants
  exact ⟨machineInv_reset, chainFollowsKey_reset⟩

/-- The transient state in use matches, held already or made from the key. -/
theorem transient_alpha {s : State} (h : ∀ c, s.ts = some c → AlphaMatches c) : AlphaMatches (transient s) := by
  unfold transient
  cases hts : s.ts with
  | none => exact keySchedule_alpha s.setup s.key
  | some c => exact h c hts

/-- Every change by the engine keeps MachineInv: each case names the clauses that the change touches. -/
theorem engineChange_keeps_machineInv {s t : State} (h : EngineChange s t) (hs : MachineInv s) : MachineInv t := by
  cases h with
  | readsSource b busy => exact { hs with heldBusy := fun _ => busy }
  | readsKey b => exact { hs with }
  | derivesTs busy =>
    exact { hs with
      transientAlpha := fun _ e => Option.some.inj e ▸ transient_alpha hs.transientAlpha
      transientBusy := fun _ => busy }
  | writesBlock g a v busy cycle =>
    exact { hs with
      memory := Memory.wf_write a v hs.memory
      transientAlpha := fun _ e => Option.some.inj e ▸ cycle ▸ updateCycle_alpha _ _
      transientBusy := fun _ => busy
      heldBusy := nofun }
  | writesChain g a v cycle =>
    exact { hs with
      memory := Memory.wf_write a v hs.memory
      chainAlpha := fun _ => cycle ▸ updateCycle_alpha _ _
      heldBusy := nofun }
  | converts nx draws => exact { hs with }
  | losesChain => exact { hs with chainHasKey := nofun, chainAlpha := nofun }
  | commitsKey => exact { hs with chainHasKey := nofun, chainAlpha := nofun, noKeyZero := nofun }
  | initsChain dir key => exact { hs with chainHasKey := fun _ => key, chainAlpha := fun _ => keySchedule_alpha _ _ }
  | clears => exact { hs with chainHasKey := nofun, chainAlpha := nofun, noKeyZero := fun _ => rfl }
  | completes =>
    exact { hs with
      transientAlpha := nofun
      transientBusy := nofun
      heldBusy := nofun
      busyNotDone := nofun
      busyNoReport := nofun }
  | raises r listed =>
    exact { hs with
      transientAlpha := nofun
      transientBusy := nofun
      heldBusy := nofun
      busyNotDone := nofun
      busyNoReport := nofun
      report := listed }

/-- Every elementary change keeps MachineInv. -/
theorem change_keeps_machineInv {s t : State} (h : Change s t) (hs : MachineInv s) : MachineInv t := by
  cases h with
  | engine h => exact engineChange_keeps_machineInv h hs
  | accepts w idle =>
    exact { hs with
      transientAlpha := nofun
      transientBusy := nofun
      heldBusy := nofun
      busyNotDone := fun _ => rfl
      busyNoReport := fun _ => ⟨rfl, rfl, rfl⟩
      report := by simp [reportable] }
  | writesStatus v => exact { hs with busyNotDone := fun hb => by simp [w1c, hs.busyNotDone hb] }
  | writesRegister ie ovr ops => exact { hs with }
  | writesMemory m hostCache canonical => exact { hs with memory := canonical hs.memory }
  | books hostCache inputs replies draws => exact { hs with }
  | resets => exact { machineInv_reset with memory := hs.memory }

/-- Settles O9, change by change. -/
theorem stepKeepsInv : Obligations.StepKeepsInv := by
  unfold Obligations.StepKeepsInv
  exact fun s t hs h => step_keeps (fun _ _ => change_keeps_machineInv) hs h

/-! ### A live chain follows its key -/

section FixedConversion

variable {c : Setup} (hc : c.cvtOor.isSome = true)
include hc

/-- A configuration that fixes CVT_OOR makes it one value. -/
theorem cvtOor_const (d d' : Nat) : cvtOor c d = cvtOor c d' := by
  obtain ⟨v, hv⟩ := Option.isSome_iff_exists.1 hc
  simp [cvtOor, hv]

/-- An extraction then depends on neither NX nor the draws. -/
theorem extract_fst_const (alpha : F64) (k : Fin 4) (nx nx' : Bool) (d d' : Nat) :
    (extract c alpha k nx d).1 = (extract c alpha k nx' d').1 := by
  unfold extract
  split
  · rfl
  · rw [cvtOor_const hc d d']

/-- The cycle of a Chaotic State then depends on nothing else (R25). -/
theorem updateCycle_chaos_congr {g g' : Gen} (h : g.chaos = g'.chaos) : (updateCycle c g).chaos = (updateCycle c g').chaos := by
  have hall : (extractAll c g).1 = (extractAll c g').1 := by
    simp only [extractAll, h, Three.mk.injEq]
    exact ⟨extract_fst_const hc .., extract_fst_const hc .., extract_fst_const hc ..⟩
  rw [updateCycle_chaos, updateCycle_chaos, h, hall]

theorem chaosAfter_succ (key : Vector Byte 18) (n : Nat) (nx : Bool) (d : Nat) :
    chaosAfter c key (n + 1) = (updateCycle c ⟨chaosAfter c key n, nx, d⟩).chaos :=
  updateCycle_chaos_congr hc rfl

end FixedConversion

/-- The configuration fixes CVT_OOR, and a live chain follows its key. -/
structure FixedChain (s : State) : Prop where
  fixed : s.setup.cvtOor.isSome = true
  follows : ChainFollowsKey s

/-- Every change by the engine keeps the tie: a cycle counts one, a construction starts at 0, and what changes the key or draws the
chain's contents ends the chain. -/
theorem engineChange_keeps_fixedChain {s t : State} (h : EngineChange s t) (hs : FixedChain s) : FixedChain t := by
  obtain ⟨hfix, hfol⟩ := hs
  refine ⟨by cases h <;> exact hfix, ?_⟩
  cases h with
  | writesChain g a v cycle =>
    intro hv
    obtain ⟨n, hn, hcs⟩ := hfol hv
    refine ⟨n + 1, ?_, ?_⟩
    · simp [hn, BitVec.ofNat_add]
    · rw [cycle, hcs, ← chaosAfter_succ hfix]
  | initsChain dir key => exact fun _ => ⟨0, rfl, rfl⟩
  | losesChain | commitsKey | clears => exact nofun
  | readsSource | readsKey | derivesTs | writesBlock | converts | completes | raises => exact hfol

/-- Every elementary change keeps the tie: beside the engine only reset touches the chain, and it ends it. -/
theorem change_keeps_fixedChain {s t : State} (h : Change s t) (hs : FixedChain s) : FixedChain t := by
  cases h with
  | engine h => exact engineChange_keeps_fixedChain h hs
  | resets => exact ⟨hs.fixed, nofun⟩
  | accepts | writesStatus | writesRegister | writesMemory | books => exact ⟨hs.fixed, hs.follows⟩

/-- Settles O10, change by change; the configuration stays with it. -/
theorem stepKeepsChainFollowsKey : Obligations.StepKeepsChainFollowsKey := by
  unfold Obligations.StepKeepsChainFollowsKey
  exact fun s t hfix hs h => (step_keeps (fun _ _ => change_keeps_fixedChain) ⟨hfix, hs⟩ h).follows

end Sys2Proof.Proofs
end

section
/-! PROOFS. The register window (spec 10_state.md R28 to R46): what a read gives and what a write changes, by the register's kind. -/

namespace Sys2Proof.Proofs

open Sys2Proof.Machine Sys2Proof.Safety

/-! ### Reads and writes at an offset -/

section Window

variable {s : State} {off : BitVec 8} {r : Reg}

theorem readOffset_reserved (h : regAt off = none) : readOffset s off = (0, s.draws) := by simp [readOffset, h]

/-- A register that is no mirror reads its value, busy or not. -/
theorem readOffset_plain (h : regAt off = some r) (hm : isMirror r = false) : readOffset s off = (regValue s r, s.draws) := by
  simp [readOffset, h, hm]

/-- While idle every register reads its value. -/
theorem readOffset_idle (h : regAt off = some r) (hb : s.busy = false) : readOffset s off = (regValue s r, s.draws) := by
  simp [readOffset, h, hb]

theorem writeOffset_reserved (v : Word) (h : regAt off = none) : writeOffset off v s = s := by simp [writeOffset, h]

theorem writeOffset_reg (v : Word) (h : regAt off = some r) : writeOffset off v s = writeReg r v s := by simp [writeOffset, h]

theorem writeReg_mirror (v : Word) (h : isMirror r = true) : writeReg r v s = s := by
  cases r with
  | cyclesHalf | posHalf | alphaHalf | idxr => rfl
  | _ => cases h

end Window

/-- Above 0x74 every offset is reserved (R29, R42). -/
theorem regAt_above : ∀ off : BitVec 8, 0x74 ≤ off.toNat → regAt off = none := by decide

/-- From 0x2C on an offset is reserved or a mirror register's (R29). -/
theorem regAt_reserved_or_mirror : ∀ off : BitVec 8, 0x2C ≤ off.toNat → (regAt off).all isMirror = true := by decide

theorem writeOffset_above (s : State) (v : Word) {off : BitVec 8} (h : 0x2C ≤ off.toNat) : writeOffset off v s = s := by
  have hm := regAt_reserved_or_mirror off h
  cases hr : regAt off with
  | none => exact writeOffset_reserved v hr
  | some r =>
    rw [hr] at hm
    rw [writeOffset_reg v hr]
    exact writeReg_mirror v hm

theorem ctrlWord_eq (s : State) : ctrlWord s = if s.ie then 1 else 0 := by
  unfold ctrlWord
  cases s.ie <;> rfl

theorem writeCmd_busy {s : State} (v : Word) (h : s.busy = true) : writeCmd v s = { s with ovr := true } := if_pos h

theorem writeCmd_idle {s : State} (v : Word) (h : s.busy = false) : writeCmd v s = accept v s := if_neg (by simp [h])

/-- Settles O48, offset by offset. -/
theorem windowRegistersReadAndWrite : Obligations.WindowRegistersReadAndWrite := by
  unfold Obligations.WindowRegistersReadAndWrite
  intro s v
  refine ⟨fun off h => ?_, fun off h => writeOffset_above s v h, ⟨readOffset_plain (r := .id) rfl rfl, rfl⟩, ⟨?_, rfl⟩,
    ⟨readOffset_plain (r := .cmd) rfl rfl, writeCmd_busy v, writeCmd_idle v⟩, ⟨readOffset_plain (r := .errInfo) rfl rfl, rfl⟩,
    ⟨readOffset_plain (r := .keyAddr) rfl rfl, rfl⟩, ⟨readOffset_plain (r := .keyLen) rfl rfl, rfl⟩,
    ⟨readOffset_plain (r := .srcAddr) rfl rfl, rfl⟩, ⟨readOffset_plain (r := .srcLen) rfl rfl, rfl⟩,
    ⟨readOffset_plain (r := .dstAddr) rfl rfl, rfl⟩, ⟨readOffset_plain (r := .dstLen) rfl rfl, rfl⟩⟩
  · obtain rfl | rfl | rfl | h := h
    · exact readOffset_reserved rfl
    · exact readOffset_reserved rfl
    · exact readOffset_reserved rfl
    · exact readOffset_reserved (regAt_above off h)
  · rw [readOffset_plain (r := .ctrl) rfl rfl, ← ctrlWord_eq]
    rfl

/-- Settles O50: the write is the W1C rule on three flags. -/
theorem statusWriteClearsOnlyItsFlags : Obligations.StatusWriteClearsOnlyItsFlags := by
  unfold Obligations.StatusWriteClearsOnlyItsFlags
  exact fun s v => writeOffset_reg (r := .status) v rfl

/-! ### STATUS -/

section Append

variable {m n i : Nat} {x : BitVec m} {y : BitVec n}

theorem getLsbD_append_low (h : i < n) : (x ++ y).getLsbD i = y.getLsbD i := by simp [BitVec.getLsbD_append, h]

theorem getLsbD_append_high (h : n ≤ i) : (x ++ y).getLsbD i = x.getLsbD (i - n) := by
  simp [BitVec.getLsbD_append, Nat.not_lt.2 h]

end Append

section Status

variable (s : State)

/-- The flags of STATUS, bit by bit (R33): the fields below a flag are skipped, and the flag is the lowest bit of what is left. -/
theorem statusWord_flags :
    (statusWord s).getLsbD 0 = s.busy ∧ (statusWord s).getLsbD 1 = s.done ∧ (statusWord s).getLsbD 2 = s.keyValid ∧
      (statusWord s).getLsbD 3 = s.chainValid ∧ (statusWord s).getLsbD 4 = decide (s.chainDir = .dec) ∧
      (statusWord s).getLsbD 5 = s.nx ∧ (statusWord s).getLsbD 6 = s.ovr ∧ (statusWord s).getLsbD 7 = false := by
  have hdir : (dirBit s.chainDir).getLsbD 0 = decide (s.chainDir = .dec) := by cases s.chainDir <;> rfl
  unfold statusWord
  refine ⟨?_, ?_, ?_, ?_, ?_, ?_, ?_, ?_⟩ <;> repeat rw [getLsbD_append_high (by decide)]
  all_goals rw [getLsbD_append_low (by decide)]
  case refine_5 => exact hdir
  all_goals simp [bit]

/-- The error field starts at bit 8 (R33). -/
theorem statusWord_err : (statusWord s).extractLsb' 8 4 = errBits s.err := by
  unfold statusWord
  repeat rw [BitVec.extractLsb'_append_eq_of_le (by decide)]
  rw [BitVec.extractLsb'_append_eq_of_add_le (by decide), BitVec.extractLsb'_eq_self]

/-- The operand field starts at bit 12 (R33). -/
theorem statusWord_errArg : (statusWord s).extractLsb' 12 2 = argBits s.errArg := by
  unfold statusWord
  repeat rw [BitVec.extractLsb'_append_eq_of_le (by decide)]
  rw [BitVec.extractLsb'_append_eq_of_add_le (by decide), BitVec.extractLsb'_eq_self]

/-- The bits above the operand field are reserved (R33). -/
theorem statusWord_reserved : (statusWord s).extractLsb' 14 18 = 0 := by
  unfold statusWord
  repeat rw [BitVec.extractLsb'_append_eq_of_le (by decide)]
  exact BitVec.extractLsb'_eq_self

end Status

/-- Settles O49, from the fields of the word and the codes of R205 and R33. -/
theorem statusShowsItsFields : Obligations.StatusShowsItsFields := by
  unfold Obligations.StatusShowsItsFields
  intro s
  obtain ⟨h0, h1, h2, h3, h4, h5, h6, h7⟩ := statusWord_flags s
  refine ⟨statusWord s, readOffset_plain (r := .status) rfl rfl, h0, h1, h2, h3, h4, h5, h6, h7, ?_⟩
  rw [statusWord_err, statusWord_errArg, statusWord_reserved]
  simp +contextual [errBits, argBits]

/-! ### The mirror registers -/

/-- The HI half beside the LO half is the value (R63). -/
theorem half_append_half (v : BitVec 64) : half true v ++ half false v = v :=
  (BitVec.extractLsb'_append_extractLsb'_eq_extractLsb' rfl).trans BitVec.extractLsb'_eq_self

/-- Two offsets that hold the halves of a value show it while idle. -/
theorem readOffset_pair {s : State} {hi lo : BitVec 8} {v : BitVec 64} {rh rl : Reg} (hb : s.busy = false)
    (hhi : regAt hi = some rh) (hlo : regAt lo = some rl) (vh : regValue s rh = half true v) (vl : regValue s rl = half false v) :
    (readOffset s hi).1 ++ (readOffset s lo).1 = v := by
  rw [readOffset_idle hhi hb, readOffset_idle hlo hb, vh, vl, half_append_half]

theorem append_toNat {m n : Nat} (x : BitVec m) (y : BitVec n) : (x ++ y).toNat = 2 ^ n * x.toNat + y.toNat := by
  rw [BitVec.toNat_append, ← Nat.shiftLeft_add_eq_or_of_lt y.isLt, Nat.shiftLeft_eq, Nat.mul_comm]

/-- The fields of IDXR in their places (R41). -/
theorem idxrWord_toNat (c : Chaotic) :
    (idxrWord c).toNat =
      c.mix.ch0.val + 4 * c.mix.ch1.val + 16 * c.mix.ch2.val + 256 * c.tap.ch0.val + 1024 * c.tap.ch1.val + 4096 * c.tap.ch2.val := by
  rw [idxrWord, append_toNat]
  simp only [append_toNat, BitVec.toNat_ofNat]
  omega

/-- Settles O51, pair by pair. -/
theorem idleMirrorsShowChainState : Obligations.IdleMirrorsShowChainState := by
  unfold Obligations.IdleMirrorsShowChainState
  intro s hb
  refine ⟨readOffset_pair hb rfl rfl rfl rfl, readOffset_pair hb rfl rfl rfl rfl, readOffset_pair hb rfl rfl rfl rfl,
    readOffset_pair hb rfl rfl rfl rfl, readOffset_pair hb rfl rfl rfl rfl, readOffset_pair hb rfl rfl rfl rfl,
    readOffset_pair hb rfl rfl rfl rfl, ?_⟩
  rw [readOffset_idle (r := .idxr) rfl hb]
  exact idxrWord_toNat s.cs

/-! ### Secrets -/

/-- What a register reads does not depend on KEY, KB, TS or the byte in flight. -/
theorem regValue_without_secrets (s : State) (key kb : Vector Byte 18) (ts : Option Chaotic) (held : Option Byte) (r : Reg) :
    regValue { s with key := key, kb := kb, ts := ts, held := held } r = regValue s r := by
  cases r <;> rfl

/-- Settles O53: register by register, and a draw depends on the count of draws alone. -/
theorem keyIsNeverReadable : Obligations.KeyIsNeverReadable := by
  unfold Obligations.KeyIsNeverReadable
  intro s key kb ts held off
  simp only [readOffset, regValue_without_secrets]

/-! ### Reset -/

/-- Settles O56, field by field. -/
theorem resetStateHasResetValues : Obligations.ResetStateHasResetValues := by
  unfold Obligations.ResetStateHasResetValues
  have hkey : ∀ (k : Nat) (h : k < 18), State.reset.key[k] = 0 := fun _ _ => Vector.getElem_replicate _
  exact ⟨hkey, rfl, rfl, rfl, rfl, rfl, rfl, rfl, rfl, rfl, rfl, rfl, rfl, rfl⟩

end Sys2Proof.Proofs
end

section
/-! PROOFS. What a running command does not see (spec 10_state.md R44; 20_memory.md R76), and the interrupt (60_exceptions.md R210). -/

namespace Sys2Proof.Proofs

open Sys2Proof.Machine Sys2Proof.Safety

/-! ### A change of the state that work does not see -/

/-- What an access leaves, with its state changed. -/
def mapWork (f : State → State) : Work → Work
  | .going s => .going (f s)
  | .ended s => .ended (f s)
  | .stuck e => .stuck e

section Unseen

variable {f : State → State} {access : State → Work} {commit : State → State} {s : State}

/-- An access that does not see a change: neither does a run of accesses. -/
theorem runAccesses_map (hf : ∀ u, access (f u) = mapWork f (access u)) (n : Nat) (s : State) :
    runAccesses access n (f s) = mapWork f (runAccesses access n s) := by
  induction n generalizing s with
  | zero => rfl
  | succ n ih =>
    have hfs := hf s
    cases h : access s with
    | going t => rw [h] at hfs; rw [runAccesses_succ_going n h, runAccesses_succ_going n hfs, ih]
    | ended t => rw [h] at hfs; rw [runAccesses_succ_ended n h, runAccesses_succ_ended n hfs]; rfl
    | stuck e => rw [h] at hfs; rw [runAccesses_succ_stuck n h, runAccesses_succ_stuck n hfs]; rfl

/-- Nor does work that runs to its end. -/
theorem workFor_map (hf : ∀ u, access (f u) = mapWork f (access u)) (hc : ∀ u, complete (commit (f u)) = f (complete (commit u)))
    (n : Nat) : workFor access commit (n + 1) n (f s) = mapNext f (workFor access commit (n + 1) n s) := by
  rw [workFor_whole, workFor_whole, runAccesses_map hf]
  cases runAccesses access n s with
  | going u => exact congrArg Host.Outcome.next (hc u)
  | ended u => rfl
  | stuck e => rfl

theorem validated_map {check : Option Report} {buffers : List (Nat × Nat)} {work work' : Answer}
    (hr : ∀ r, raiseError r (f s) = f (raiseError r s)) (hs : (f s).setup = s.setup) (hw : work' = mapNext f work) :
    validated check buffers (f s) work' = mapNext f (validated check buffers s work) := by
  unfold validated
  rw [hs, hw]
  cases check with
  | some r => exact congrArg Host.Outcome.next (hr r)
  | none => dsimp only; split <;> rfl

end Unseen

/-! ### CTRL.IE and the operand registers -/

/-- The state with other operand registers and another CTRL.IE. -/
abbrev withRegisters (o : Operands) (ie : Bool) (s : State) : State := { s with ops := o, ie := ie }

section Registers

variable (o : Operands) (ie : Bool) (s : State)

theorem keyByte_withRegisters : keyByte (withRegisters o ie s) = mapWork (withRegisters o ie) (keyByte s) := by
  have hmem : memRead (withRegisters o ie s) = memRead s := rfl
  unfold keyByte
  rw [hmem]
  dsimp only
  split <;> rfl

section DataAccess

variable {o ie s} {dir : Dir} {c : Chaotic} {put : Chaotic → State → State} {lose : State → State}

theorem readAccess_withRegisters (hlose : ∀ u, lose (withRegisters o ie u) = withRegisters o ie (lose u)) :
    readAccess lose (withRegisters o ie s) = mapWork (withRegisters o ie) (readAccess lose s) := by
  have hmem : memRead (withRegisters o ie s) = memRead s := rfl
  unfold readAccess
  rw [hmem, hlose]
  dsimp only
  split <;> rfl

theorem writeAccess_withRegisters (hput : ∀ x u, put x (withRegisters o ie u) = withRegisters o ie (put x u))
    (hlose : ∀ u, lose (withRegisters o ie u) = withRegisters o ie (lose u)) (b : Byte) :
    writeAccess dir c put lose b (withRegisters o ie s) = mapWork (withRegisters o ie) (writeAccess dir c put lose b s) := by
  have same : memWrite (afterTransform dir c (withRegisters o ie s) b) = memWrite (afterTransform dir c s b) := rfl
  obtain ⟨hm, e⟩ | ⟨hm, e⟩ | ⟨m, hm, e⟩ := writeAccess_cases dir c put lose b s <;>
    obtain ⟨hm', e'⟩ | ⟨hm', e'⟩ | ⟨m', hm', e'⟩ := writeAccess_cases dir c put lose b (withRegisters o ie s) <;>
    cases hm.symm.trans hm' <;> rw [e, e']
  · exact congrArg (fun u => Work.ended (raiseError ⟨.busError, .destination, _⟩ u)) (hlose (afterTransform dir c s b))
  · rfl
  · exact congrArg Work.going (hput _ { afterTransform dir c s b with mem := m, held := none, idx := s.idx + 1 })

/-- A data access does not see the registers when what the command does beside it does not. -/
theorem dataAccess_withRegisters (hput : ∀ x u, put x (withRegisters o ie u) = withRegisters o ie (put x u))
    (hlose : ∀ u, lose (withRegisters o ie u) = withRegisters o ie (lose u)) :
    dataAccess dir c put lose (withRegisters o ie s) = mapWork (withRegisters o ie) (dataAccess dir c put lose s) := by
  cases hh : s.held with
  | none => rw [dataAccess_read hh, dataAccess_read (s := withRegisters o ie s) hh, readAccess_withRegisters hlose]
  | some b => rw [dataAccess_write hh, dataAccess_write (s := withRegisters o ie s) hh, writeAccess_withRegisters hput hlose]

end DataAccess

theorem blockAccess_withRegisters (d : Dir) :
    blockAccess d (withRegisters o ie s) = mapWork (withRegisters o ie) (blockAccess d s) :=
  dataAccess_withRegisters (fun _ _ => rfl) fun _ => rfl

theorem chainAccess_withRegisters : chainAccess (withRegisters o ie s) = mapWork (withRegisters o ie) (chainAccess s) :=
  dataAccess_withRegisters (fun _ _ => rfl) fun _ => rfl

theorem keyLoad_withRegisters : exec .keyLoad (withRegisters o ie s) = mapNext (withRegisters o ie) (exec .keyLoad s) :=
  validated_map (fun _ => rfl) rfl (workFor_map (commit := commitKey) (keyByte_withRegisters o ie) (fun _ => rfl) _)

theorem block_withRegisters (d : Dir) :
    blockFor d (accessesLeft 16 s + 1) (withRegisters o ie s) = mapNext (withRegisters o ie) (blockFor d (accessesLeft 16 s + 1) s) :=
  validated_map (fun _ => rfl) rfl
    (workFor_map (commit := id) (s := deriveTs s) (fun u => blockAccess_withRegisters o ie u d) (fun _ => rfl) _)

theorem chainInit_withRegisters (d : Dir) :
    chainInit d (withRegisters o ie s) = mapNext (withRegisters o ie) (chainInit d s) := by
  unfold chainInit
  have hcheck : checkChainInit (withRegisters o ie s) = checkChainInit s := rfl
  rw [hcheck]
  split <;> rfl

theorem chainCrypt_withRegisters :
    exec .chainCrypt (withRegisters o ie s) = mapNext (withRegisters o ie) (exec .chainCrypt s) :=
  validated_map (fun _ => rfl) rfl (workFor_map (commit := id) (chainAccess_withRegisters o ie) (fun _ => rfl) _)

/-- No command sees CTRL.IE or the operand registers, and none changes them. -/
theorem exec_withRegisters (i : Instr) : exec i (withRegisters o ie s) = mapNext (withRegisters o ie) (exec i s) := by
  cases i with
  | keyLoad => exact keyLoad_withRegisters o ie s
  | blockEnc => exact block_withRegisters o ie s .enc
  | blockDec => exact block_withRegisters o ie s .dec
  | chainInitEnc => exact chainInit_withRegisters o ie s .enc
  | chainInitDec => exact chainInit_withRegisters o ie s .dec
  | chainCrypt => exact chainCrypt_withRegisters o ie s
  | nop | clear | illegalOpc08 | illegalOpc10 | illegalOpc20 | illegalOpc40 | illegalOpc80 | illegalRsv => rfl

end Registers

/-- Settles O47, command by command from what one access sees. -/
theorem runningCommandIgnoresOperandRegisters : Obligations.RunningCommandIgnoresOperandRegisters := by
  unfold Obligations.RunningCommandIgnoresOperandRegisters
  exact fun i s o ie => exec_withRegisters o ie s i

/-! ### The interrupt -/

section Interrupt

variable {s t : State}

/-- Every change by the engine leaves CTRL.IE as it is (R44). -/
theorem engineChange_ie (h : EngineChange s t) : t.ie = s.ie := by cases h <;> rfl

/-- An engine that is idle again after a command shows DONE (R33, R203, R204). -/
abbrev IdleDone (s : State) : Prop := s.busy = false → s.done = true

/-- The changes that end a command set DONE, and the others leave BUSY and DONE as they are. -/
theorem engineChange_idleDone (h : EngineChange s t) (hs : IdleDone s) : IdleDone t := by
  cases h with
  | completes | raises => exact fun _ => rfl
  | _ => exact hs

theorem exec_ie {i : Instr} (hb : s.busy = true) (h : exec i s = .next t) : t.ie = s.ie :=
  reflTransGen_keeps (P := fun u => u.ie = s.ie) (fun _ _ huv hu => (engineChange_ie huv).trans hu) (exec_changes hb h) rfl

theorem exec_done {i : Instr} (hb : s.busy = true) (h : exec i s = .next t) : t.done = true :=
  reflTransGen_keeps (P := IdleDone) (fun _ _ => engineChange_idleDone) (exec_changes hb h) (by simp [IdleDone, hb]) (exec_idle h)

end Interrupt

/-- Settles O54: a command that ends sets DONE and leaves CTRL.IE, and acceptance and the W1C rule clear DONE. -/
theorem interruptFollowsDone : Obligations.InterruptFollowsDone := by
  unfold Obligations.InterruptFollowsDone
  refine ⟨fun _ => rfl, fun i s t hb h => ?_, fun s w => ?_, fun s => ?_⟩
  · rw [irq, exec_ie hb h, exec_done hb h, Bool.and_true]
  · rw [irq, accept_done, Bool.and_false]
  · rw [writeOffset_reg (r := .status) _ rfl, writeReg, irq, writeStatus_done]
    simp [w1c]

end Sys2Proof.Proofs
end

section
/-! PROOFS. Whole data commands that run to their end (spec 20_memory.md R64, R65): the checks pass, every access is answered, and the
bytes of Laws/Work stand in the destination. An in-place run moves the same bytes. -/

namespace Sys2Proof.Proofs

open Sys2Proof.Machine Sys2Proof.Safety

/-- Validation that passes hands over to the work. -/
theorem validated_passes {check : Option Report} {buffers : List (Nat × Nat)} {s : State} {work : Answer} (hc : check = none)
    (hb : ∀ b ∈ buffers, hasSideEffects s.setup.platform b.1 b.2 = false) : validated check buffers s work = work := by
  obtain ⟨r, hr, -⟩ | ⟨-, ⟨b, hbb, he⟩, -⟩ | ⟨-, -, e⟩ := validated_cases check buffers s work
  · cases hc.symm.trans hr
  · cases (hb b hbb).symm.trans he
  · exact e

theorem workFor_whole_going {access : State → Work} {commit : State → State} {n : Nat} {s u : State}
    (h : runAccesses access n s = .going u) : workFor access commit (n + 1) n s = .next (complete (commit u)) := by
  rw [workFor_whole, h]

section Passes

variable {s : State} {n : Nat}

theorem checkBlock_of_passes (h : BlockPasses s) : checkBlock s = none := by
  obtain ⟨hk, hsl, hdl, hs, hd, hov, -, -⟩ := h
  exact (checkBlock_eq_none s).2 ⟨hk, hsl, hdl, outOfRange_eq_false.2 fun _ => hs, outOfRange_eq_false.2 fun _ => hd, hov⟩

theorem checkChainCrypt_of_passes (h : ChainPasses s n) : checkChainCrypt s = none := by
  obtain ⟨hv, rfl, hm, hdl, hs, hd, hov, -, -⟩ := h
  exact (checkChainCrypt_eq_none s).2 ⟨hv, hm, hdl, outOfRange_eq_false.2 hs, outOfRange_eq_false.2 hd, hov⟩

theorem accessesLeft_fresh (n : Nat) (h : Fresh s) : accessesLeft n s = 2 * n := by
  obtain ⟨hidx, -, hheld⟩ := h
  simp [accessesLeft, hidx, hheld]

/-- A command that has just been accepted derives its transient state from the key (R23, R152). -/
theorem deriveTs_fresh (h : Fresh s) : (deriveTs s).ts = some (keySchedule s.setup s.key) := by
  obtain ⟨-, hts, -⟩ := h
  simp [deriveTs, transient, hts]

theorem exec_blockInstr (d : Dir) (s : State) : exec (blockInstr d) s = blockFor d (accessesLeft 16 s + 1) s := by
  cases d <;> rfl

/-- The work of a single-block command that passes its checks. -/
theorem exec_blockInstr_passes (d : Dir) (h : BlockPasses s) :
    exec (blockInstr d) s = workFor (blockAccess d) id (accessesLeft 16 s + 1) (accessesLeft 16 s) (deriveTs s) := by
  have hcheck := checkBlock_of_passes h
  obtain ⟨-, -, -, -, -, -, hs, hd⟩ := h
  rw [exec_blockInstr, blockFor]
  exact validated_passes hcheck (by simpa [src, dst] using ⟨hs, hd⟩)

/-- The work of CHAIN_CRYPT when it passes its checks. -/
theorem exec_chainCrypt_passes (h : ChainPasses s n) :
    exec .chainCrypt s = workFor chainAccess id (accessesLeft n s + 1) (accessesLeft n s) s := by
  have hcheck := checkChainCrypt_of_passes h
  obtain ⟨-, rfl, -, -, -, -, -, hs, hd⟩ := h
  rw [exec_chainCrypt, chainCryptFor]
  exact validated_passes hcheck (by simpa [src, dst] using ⟨hs, hd⟩)

end Passes

section Ready

variable {s : State} {n : Nat}

/-- A single-block command that will run to its end does: its whole next state, with the memory it leaves (R152, R153, R156). -/
theorem exec_block_ready (d : Dir) (h : BlockReady s) :
    ∃ m, Moved d s (keySchedule s.setup s.key) 16 m ∧
      exec (blockInstr d) s = .next (complete
        { s with
          mem := m, idx := 16, nx := (cycles s.setup (genOf (keySchedule s.setup s.key) s) 16).nx,
          draws := (cycles s.setup (genOf (keySchedule s.setup s.key) s) 16).draws }) := by
  obtain ⟨hf, hwf, hp, hA⟩ := h
  have ⟨hidx, _, hheld⟩ := hf
  have ⟨_, _, _, _, _, hov, _, _⟩ := hp
  obtain ⟨m, hm, hrun⟩ := runAccesses_block (dir := d) (s := deriveTs s) (deriveTs_fresh hf) hidx hheld hwf hov hA le_rfl (by decide)
  refine ⟨m, hm, ?_⟩
  rw [exec_blockInstr_passes d hp, accessesLeft_fresh 16 hf, workFor_whole_going hrun]
  rfl

/-- CHAIN_CRYPT that will run to its end does: its whole next state, with the memory it leaves (R175, R179). -/
theorem exec_chain_ready (h : ChainReady s n) :
    ∃ m, Moved s.chainDir s s.cs n m ∧
      exec .chainCrypt s = .next (complete
        { s with
          mem := m, idx := BitVec.ofNat 32 n, nx := (cycles s.setup (genOf s.cs s) n).nx,
          draws := (cycles s.setup (genOf s.cs s) n).draws, cs := (cycles s.setup (genOf s.cs s) n).chaos,
          cycles := s.cycles + BitVec.ofNat 64 n }) := by
  obtain ⟨hf, hwf, hp, hA⟩ := h
  have ⟨hidx, _, hheld⟩ := hf
  have ⟨_, hlen, _, _, _, _, hov, _, _⟩ := hp
  have hn : n < 2 ^ 32 := hlen ▸ s.latch.srcLen.isLt
  obtain ⟨m, hm, hrun⟩ := runAccesses_chain hidx hheld hwf hov hA le_rfl hn
  refine ⟨m, hm, ?_⟩
  rw [exec_chainCrypt_passes hp, accessesLeft_fresh n hf, workFor_whole_going hrun]
  rfl

end Ready

/-- The state with the latched source address as latched destination address. -/
abbrev inPlace (s : State) : State := { s with latch := { s.latch with dstAddr := s.latch.srcAddr } }

/-- Both runs write the source bytes of `s`, combined with the same digits. -/
theorem moved_inPlace {d : Dir} {s : State} {c : Chaotic} {n : Nat} {m m' : Memory} (h : Moved d s c n m)
    (h' : Moved d (inPlace s) c n m') (k : Nat) (hk : k < n) : m'.read (src s + k) = m.read (dst s + k) := by
  obtain ⟨-, hb, -⟩ := h
  obtain ⟨-, hb', -⟩ := h'
  exact (hb' k hk).trans (hb k hk).symm

/-- Settles O31, from the bytes that a whole command moves. -/
theorem inPlaceGivesTheSameBytes : Obligations.InPlaceGivesTheSameBytes := by
  unfold Obligations.InPlaceGivesTheSameBytes
  refine ⟨fun d s h h' => ?_, fun n s h h' => ?_⟩
  · obtain ⟨m, hm, e⟩ := exec_block_ready d h
    obtain ⟨m', hm', e'⟩ := exec_block_ready d h'
    exact ⟨_, _, e, e', moved_inPlace hm hm'⟩
  · obtain ⟨m, hm, e⟩ := exec_chain_ready h
    obtain ⟨m', hm', e'⟩ := exec_chain_ready h'
    exact ⟨_, _, e, e', moved_inPlace hm hm'⟩

end Sys2Proof.Proofs
end

section
/-! PROOFS. Register accesses as events (spec 20_memory.md R70; 10_state.md R28, R43). -/

namespace Sys2Proof.Proofs

open Sys2Proof.Machine Sys2Proof.Safety

section Accesses

variable {s : State} {off : BitVec 8}

/-- With an event waiting, a step is that event. -/
theorem step_event {e : Event} {rest : List Event} (h : s.inputs = e :: rest) : step s = happen e { s with inputs := rest } := by
  rw [step, h]

theorem properAccess_iff {w : Width} : properAccess w off = true ↔ w = .w32 ∧ off.toNat % 4 = 0 := by
  simp [properAccess]

theorem regRead_proper {w : Width} (h : properAccess w off = true) :
    regRead w off s =
      .next { s with replies := s.replies ++ [.reg off (readOffset s off).1], draws := (readOffset s off).2 } := if_pos h

theorem regRead_improper {w : Width} (h : ¬properAccess w off = true) :
    regRead w off s = .refused (.badRegisterAccess s.setup.platform.mmioBadAccess) := if_neg h

theorem regWrite_proper {w : Width} (v : Word) (h : properAccess w off = true) :
    regWrite w off v s = .next (writeOffset off v s) := if_pos h

theorem regWrite_improper {w : Width} (v : Word) (h : ¬properAccess w off = true) :
    regWrite w off v s = .refused (.badRegisterAccess s.setup.platform.mmioBadAccess) := if_neg h

/-- What a register reads depends on none of the model's own fields. -/
theorem regValue_without_books (s : State) (inputs : List Event) (replies : List Reply) (draws : Nat) (r : Reg) :
    regValue { s with inputs := inputs, replies := replies, draws := draws } r = regValue s r := by
  cases r <;> rfl

/-- A read does not depend on the waiting events or on earlier replies. -/
theorem readOffset_without_lists (s : State) (inputs : List Event) (replies : List Reply) (off : BitVec 8) :
    readOffset { s with inputs := inputs, replies := replies } off = readOffset s off := by
  simp only [readOffset, regValue_without_books s inputs replies s.draws]

/-- While idle a read draws nothing (R43). -/
theorem readOffset_idle_draws (h : s.busy = false) : (readOffset s off).2 = s.draws := by
  cases hr : regAt off with
  | none => rw [readOffset_reserved hr]
  | some r => rw [readOffset_idle hr h]

end Accesses

/-- Settles O52: an event is its register access, and an access is proper when it is an aligned 32-bit one. -/
theorem registerReadsHaveNoSideEffects : Obligations.RegisterReadsHaveNoSideEffects := by
  unfold Obligations.RegisterReadsHaveNoSideEffects
  refine fun s off rest => ⟨fun aligned => ⟨fun h => ?_, fun v h => ?_, fun idle => ?_⟩, fun w v bad => ?_⟩
  · rw [step_event h, happen, regRead_proper (properAccess_iff.2 ⟨rfl, aligned⟩), readOffset_without_lists s rest s.replies]
  · rw [step_event h, happen, regWrite_proper v (properAccess_iff.2 ⟨rfl, aligned⟩)]
  · rw [readOffset_idle_draws idle]
    exact readOffset_without_lists s s.inputs _ off
  · have improper : ¬properAccess w off = true := by rw [properAccess_iff]; tauto
    exact ⟨fun h => by rw [step_event h, happen, regRead_improper improper],
      fun h => by rw [step_event h, happen, regWrite_improper v improper]⟩

end Sys2Proof.Proofs
end

section
/-! PROOFS. The host's accesses to memory through its caches (spec 20_memory.md R68, R73, R77; 70_reset_and_hazards.md R251, R254): one
rule for each access and each case of coherence, and the frame of every event that writes no memory. -/

namespace Sys2Proof.Proofs

open Sys2Proof.Machine Sys2Proof.Safety

section Caches

variable {s : State} {a : Word} {v : Byte}

/-! ### What the caches hold and what the host sees -/

/-- A line put into the caches is what they hold for its address. -/
theorem cached_cacheWith {t : State} {l : CacheLine} (h : t.hostCache = cacheWith l s) : cached t l.addr = some l := by
  simp [cached, h, cacheWith]

/-- After an invalidation the caches hold nothing for the address. -/
theorem cached_hostInvalidate (s : State) (a : Word) : cached (hostInvalidate a s) a.toNat = none := by
  simp [cached, hostInvalidate]

theorem hostSees_coherent (h : s.setup.platform.memCoherent = true) (x : Nat) : hostSees s x = s.mem.read x := if_pos h

theorem hostSees_cached {x : Nat} {l : CacheLine} (hl : cached s x = some l) (h : s.setup.platform.memCoherent = false) :
    hostSees s x = l.byte := by
  simp [hostSees, h, hl]

/-- Without a line for the address the host sees memory, coherent or not. -/
theorem hostSees_uncached {x : Nat} (hl : cached s x = none) : hostSees s x = s.mem.read x := by
  simp [hostSees, hl]

/-! ### The accesses -/

theorem hostStore_coherent (hp : plainMemory s.setup.platform a.toNat = true) (h : s.setup.platform.memCoherent = true) :
    hostStore a v s = .next { s with mem := s.mem.write a.toNat v } := by
  simp [hostStore, hp, h]

theorem hostStore_into_cache (hp : plainMemory s.setup.platform a.toNat = true) (h : s.setup.platform.memCoherent = false) :
    hostStore a v s = .next { s with hostCache := cacheWith ⟨a.toNat, v, true⟩ s } := by
  simp [hostStore, hp, h]

/-- A load that keeps no byte: memory is coherent, or the caches hold the byte already. -/
theorem hostLoad_keeps_cache (hp : plainMemory s.setup.platform a.toNat = true)
    (h : s.setup.platform.memCoherent = true ∨ (cached s a.toNat).isSome = true) :
    hostLoad a s = .next { s with replies := s.replies ++ [.mem a (hostSees s a.toNat)] } := by
  simp [hostLoad, hp, h]

/-- A load that misses the caches leaves the byte in them. -/
theorem hostLoad_miss (hp : plainMemory s.setup.platform a.toNat = true) (h : s.setup.platform.memCoherent = false)
    (hl : cached s a.toNat = none) :
    hostLoad a s = .next
      { s with
        hostCache := cacheWith ⟨a.toNat, hostSees s a.toNat, false⟩ s
        replies := s.replies ++ [.mem a (hostSees s a.toNat)] } := by
  simp [hostLoad, hp, h, hl]

theorem busWrite_plain (hp : plainMemory s.setup.platform a.toNat = true) :
    busWrite a v s = .next { s with mem := s.mem.write a.toNat v } := by
  simp [busWrite, hp]

/-- Where no plain memory is, every agent's access is refused. -/
theorem access_refused (hp : plainMemory s.setup.platform a.toNat = false) :
    hostStore a v s = .refused .hostAccessOutsideMemory ∧ hostLoad a s = .refused .hostAccessOutsideMemory ∧
      busWrite a v s = .refused .hostAccessOutsideMemory := by
  simp [hostStore, hostLoad, busWrite, hp]

/-! ### Cleaning -/

/-- A clean of a dirty byte writes it to memory. -/
theorem hostClean_dirty {l : CacheLine} (hl : cached s a.toNat = some l) (hd : l.dirty = true) :
    (hostClean a s).mem = s.mem.write a.toNat l.byte := by
  simp [hostClean, hl, hd]

/-- A clean writes at most the byte of its address. -/
theorem hostClean_mem (a : Word) (s : State) :
    (hostClean a s).mem = s.mem ∨ ∃ b, (hostClean a s).mem = s.mem.write a.toNat b := by
  cases hl : cached s a.toNat with
  | none => exact .inl (by simp [hostClean, hl])
  | some l =>
    cases hd : l.dirty with
    | false => exact .inl (by simp [hostClean, hl, hd])
    | true => exact .inr ⟨l.byte, hostClean_dirty hl hd⟩

theorem hostClean_read_other {x : Nat} (h : x ≠ a.toNat) : (hostClean a s).mem.read x = s.mem.read x := by
  obtain e | ⟨b, e⟩ := hostClean_mem a s <;> rw [e]
  exact Memory.read_write_other _ b h

/-! ### The frame of memory -/

theorem writeReg_mem (r : Reg) (v : Word) (s : State) : (writeReg r v s).mem = s.mem := by
  cases r with
  | cmd =>
    cases hb : s.busy with
    | true => rw [writeReg, writeCmd_busy v hb]
    | false => rw [writeReg, writeCmd_idle v hb, accept_mem]
  | _ => rfl

theorem writeOffset_mem (off : BitVec 8) (v : Word) (s : State) : (writeOffset off v s).mem = s.mem := by
  cases hr : regAt off with
  | none => rw [writeOffset_reserved v hr]
  | some r => rw [writeOffset_reg v hr, writeReg_mem]

theorem regRead_mem {w : Width} {off : BitVec 8} {t : State} (h : regRead w off s = .next t) : t.mem = s.mem := by
  unfold regRead at h
  split at h <;> cases h
  rfl

theorem regWrite_mem {w : Width} {off : BitVec 8} {x : Word} {t : State} (h : regWrite w off x s = .next t) : t.mem = s.mem := by
  unfold regWrite at h
  split at h <;> cases h
  exact writeOffset_mem off x s

theorem hostStore_mem {t : State} (hc : s.setup.platform.memCoherent = false) (h : hostStore a v s = .next t) : t.mem = s.mem := by
  cases hp : plainMemory s.setup.platform a.toNat with
  | false => cases (access_refused hp).1.symm.trans h
  | true => cases (hostStore_into_cache hp hc).symm.trans h; rfl

theorem hostLoad_mem {t : State} (h : hostLoad a s = .next t) : t.mem = s.mem := by
  unfold hostLoad at h
  split at h <;> cases h
  rfl

/-- Without coherence, an event other than a clean, another master's write and the engine's turn leaves memory as it was. -/
theorem happen_mem {e : Event} {t : State} (hc : s.setup.platform.memCoherent = false) (h : happen e s = .next t)
    (clean : ∀ x, e ≠ .hostClean x) (write : ∀ x y, e ≠ .busWrite x y) (turn : ∀ n, e ≠ .engine n) : t.mem = s.mem := by
  cases e with
  | regRead w off => exact regRead_mem h
  | regWrite w off v => exact regWrite_mem h
  | hostStore a v => exact hostStore_mem hc h
  | hostLoad a => exact hostLoad_mem h
  | hostInvalidate a => cases h; rfl
  | reset => cases h; exact resetEngine_mem s
  | hostClean a => exact absurd rfl (clean a)
  | busWrite a v => exact absurd rfl (write a v)
  | engine n => exact absurd rfl (turn n)

/-! ### An access and what is seen after it -/

/-- Without coherence a store leaves its byte dirty in the host's caches, and memory as it was. -/
theorem hostStore_caches (hp : plainMemory s.setup.platform a.toNat = true) (hc : s.setup.platform.memCoherent = false) :
    ∃ t, hostStore a v s = .next t ∧ cached t a.toNat = some ⟨a.toNat, v, true⟩ ∧ t.mem = s.mem ∧ t.setup = s.setup :=
  ⟨_, hostStore_into_cache hp hc, cached_cacheWith (l := ⟨a.toNat, v, true⟩) rfl, rfl, rfl⟩

/-- Without coherence a stored byte is seen by the host, and reaches memory by a clean. -/
theorem hostStore_then_clean (hwf : s.mem.wf = true) (hp : plainMemory s.setup.platform a.toNat = true)
    (hc : s.setup.platform.memCoherent = false) :
    ∃ t, hostStore a v s = .next t ∧ t.mem = s.mem ∧ hostSees t a.toNat = v ∧ (hostClean a t).mem.read a.toNat = v := by
  obtain ⟨t, h, hl, hmem, hsetup⟩ := hostStore_caches (v := v) hp hc
  refine ⟨t, h, hmem, hostSees_cached hl (by rw [hsetup, hc]), ?_⟩
  rw [hostClean_dirty hl rfl, hmem]
  exact Memory.read_write_same _ v hwf

/-- Without coherence a load leaves the byte it gives in the host's caches, and the rest as it was. -/
theorem hostLoad_caches (hp : plainMemory s.setup.platform a.toNat = true) (hc : s.setup.platform.memCoherent = false) :
    ∃ t l, hostLoad a s = .next t ∧ cached t a.toNat = some l ∧ l.byte = hostSees s a.toNat ∧
      t.mem = s.mem ∧ t.setup = s.setup ∧ t.replies = s.replies ++ [.mem a (hostSees s a.toNat)] := by
  cases hl : cached s a.toNat with
  | none => exact ⟨_, _, hostLoad_miss hp hc hl, cached_cacheWith (l := ⟨a.toNat, _, false⟩) rfl, rfl, rfl, rfl, rfl⟩
  | some l => exact ⟨_, l, hostLoad_keeps_cache hp (.inr (by rw [hl]; rfl)), hl, (hostSees_cached hl hc).symm, rfl, rfl, rfl⟩

/-- Without coherence a loaded byte is seen from then on, whatever is then written to memory. -/
theorem hostLoad_stays (hp : plainMemory s.setup.platform a.toNat = true) (hc : s.setup.platform.memCoherent = false) :
    ∃ t, hostLoad a s = .next t ∧ t.mem = s.mem ∧ t.replies = s.replies ++ [.mem a (hostSees s a.toNat)] ∧
      ∀ b : Byte, hostSees { t with mem := t.mem.write a.toNat b } a.toNat = hostSees s a.toNat := by
  obtain ⟨t, l, h, hl, hb, hmem, hsetup, hreplies⟩ := hostLoad_caches hp hc
  refine ⟨t, h, hmem, hreplies, fun b => ?_⟩
  rw [← hb]
  exact hostSees_cached (s := { t with mem := t.mem.write a.toNat b }) hl (by rw [hsetup, hc])

/-- After an invalidation the host sees the byte that memory holds, coherent or not. -/
theorem hostSees_hostInvalidate (a : Word) (s : State) : hostSees (hostInvalidate a s) a.toNat = s.mem.read a.toNat :=
  hostSees_uncached (cached_hostInvalidate s a)

end Caches

/-- Settles O59, access by access. -/
theorem cachedStoreNeedsCleaning : Obligations.CachedStoreNeedsCleaning := by
  unfold Obligations.CachedStoreNeedsCleaning
  intro s a v hwf hp
  have written (b : Byte) : (s.mem.write a.toNat b).read a.toNat = b := Memory.read_write_same _ b hwf
  have others (x : Nat) (hx : x ≠ a.toNat) : (s.mem.write a.toNat v).read x = s.mem.read x := Memory.read_write_other _ v hx
  refine ⟨fun hc => ⟨?_, ?_⟩, fun hc => ⟨?_, ?_, ?_, ?_⟩, fun b => ?_, ?_, fun b hb => access_refused hb⟩
  · exact ⟨_, hostStore_coherent hp hc, written v, others⟩
  · exact ⟨_, hostLoad_keeps_cache hp (.inl hc), rfl, by rw [hostSees_coherent hc]⟩
  · exact hostStore_then_clean hwf hp hc
  · exact fun e t h => happen_mem hc h
  · exact fun x hx => hostClean_read_other hx
  · exact hostLoad_stays hp hc
  · exact (hostSees_hostInvalidate a _).trans (written b)
  · exact ⟨_, busWrite_plain hp, written v, others⟩

end Sys2Proof.Proofs
end

section
/-! PROOFS. The encoding (spec 30_encoding.md R80 to R84): the fields of a command word, the decoder row by row, and that decoder and
encoder are inverse to each other. A reserved operation code is a leading one at bit 3, 4, 5, 6 or 7 with the row's free bits below it
(R83), so one argument over the bit's place serves the five rows with RSV = 0. -/

namespace Sys2Proof.Proofs

open Sys2Proof.Machine Sys2Proof.Safety

/-! ### The fields of a word -/

section Fields

variable {w : Word}

theorem rsvOf_toNat (w : Word) : (rsvOf w).toNat = w.toNat / 256 := by
  have hw : w.toNat < 2 ^ 32 := w.isLt
  rw [rsvOf, BitVec.extractLsb'_toNat, Nat.shiftRight_eq_div_pow]
  omega

theorem rsvOf_eq_zero_iff : rsvOf w = 0 ↔ w.toNat < 256 := by
  rw [← BitVec.toNat_inj, rsvOf_toNat]
  exact Nat.div_eq_zero_iff_lt (by decide)

theorem opcOf_toNat (h : rsvOf w = 0) : (opcOf w).toNat = w.toNat := by
  rw [opcOf, BitVec.extractLsb'_toNat, Nat.shiftRight_zero, Nat.mod_eq_of_lt (rsvOf_eq_zero_iff.1 h)]

/-- A word with RSV = 0 is its operation code. -/
theorem setWidth_opcOf (h : rsvOf w = 0) : (opcOf w).setWidth 32 = w := by
  refine BitVec.eq_of_toNat_eq ?_
  rw [BitVec.toNat_setWidth_of_le (by decide), opcOf_toNat h]

end Fields

/-! ### A leading one and free bits -/

/-- The word with a one at bit `k` and the free bits `low` below it. -/
def leadingOne (k : Nat) (low : BitVec k) : Word := BitVec.twoPow 32 k ||| low.setWidth 32

section LeadingOne

variable {k : Nat}

theorem encode_illegalOpc08 (low : BitVec 3) : encode (.illegalOpc08 low) = leadingOne 3 low := rfl
theorem encode_illegalOpc10 (low : BitVec 4) : encode (.illegalOpc10 low) = leadingOne 4 low := rfl
theorem encode_illegalOpc20 (low : BitVec 5) : encode (.illegalOpc20 low) = leadingOne 5 low := rfl
theorem encode_illegalOpc40 (low : BitVec 6) : encode (.illegalOpc40 low) = leadingOne 6 low := rfl
theorem encode_illegalOpc80 (low : BitVec 7) : encode (.illegalOpc80 low) = leadingOne 7 low := rfl

theorem leadingOne_toNat (hk : k < 32) (low : BitVec k) : (leadingOne k low).toNat = 2 ^ k + low.toNat := by
  rw [leadingOne, BitVec.toNat_or, BitVec.toNat_twoPow_of_lt hk, BitVec.toNat_setWidth_of_le hk.le]
  simpa using (Nat.two_pow_add_eq_or_of_lt low.isLt 1).symm

theorem rsvOf_leadingOne (hk : k < 8) (low : BitVec k) : rsvOf (leadingOne k low) = 0 := by
  have hlow : low.toNat < 2 ^ k := low.isLt
  have hpow : 2 ^ (k + 1) ≤ 2 ^ 8 := Nat.pow_le_pow_right (by decide) hk
  rw [rsvOf_eq_zero_iff, leadingOne_toNat (by omega)]
  omega

theorem opcOf_leadingOne_toNat (hk : k < 8) (low : BitVec k) : (opcOf (leadingOne k low)).toNat = 2 ^ k + low.toNat := by
  rw [opcOf_toNat (rsvOf_leadingOne hk low), leadingOne_toNat (by omega)]

/-- The free bits are read back from the operation code. -/
theorem low_of_leadingOne (hk : k < 8) (low : BitVec k) : (opcOf (leadingOne k low)).extractLsb' 0 k = low := by
  refine BitVec.eq_of_toNat_eq ?_
  rw [BitVec.extractLsb'_toNat, Nat.shiftRight_zero, opcOf_leadingOne_toNat hk, Nat.add_mod_left, Nat.mod_eq_of_lt low.isLt]

/-- A word whose operation code has its leading one at bit `k` is that one and the bits below it. -/
theorem leadingOne_of_opcOf {w : Word} (hk : k < 32) (hr : rsvOf w = 0) (hlow : 2 ^ k ≤ (opcOf w).toNat)
    (hhigh : (opcOf w).toNat < 2 ^ (k + 1)) : leadingOne k ((opcOf w).extractLsb' 0 k) = w := by
  refine BitVec.eq_of_toNat_eq ?_
  rw [leadingOne_toNat hk, BitVec.extractLsb'_toNat, Nat.shiftRight_zero, ← opcOf_toNat hr, Nat.mod_eq_sub_mod hlow,
    Nat.mod_eq_of_lt (by omega)]
  omega

end LeadingOne

/-! ### The decoder, row by row -/

section Decoder

variable {w : Word} {opc : BitVec 8}

theorem decode_rsv (h : rsvOf w ≠ 0) : decode w = .illegalRsv w := if_pos h

theorem decode_opc (h : rsvOf w = 0) : decode w = decodeOpc (opcOf w) := if_neg (not_not.2 h)

/-- From 0x08 on, the place of the operation code's leading one tells the row (R83). -/
theorem decodeOpc_reserved (h : 0x08 ≤ opc.toNat) :
    decodeOpc opc =
      if opc.toNat < 0x10 then .illegalOpc08 (opc.extractLsb' 0 3)
      else if opc.toNat < 0x20 then .illegalOpc10 (opc.extractLsb' 0 4)
      else if opc.toNat < 0x40 then .illegalOpc20 (opc.extractLsb' 0 5)
      else if opc.toNat < 0x80 then .illegalOpc40 (opc.extractLsb' 0 6)
      else .illegalOpc80 (opc.extractLsb' 0 7) := by
  have noCommand (c : BitVec 8) (hc : c.toNat < 0x08) : opc ≠ c := by
    rintro rfl
    exact absurd hc (not_lt.2 h)
  simp [decodeOpc, noCommand, BitVec.lt_def]

theorem decodeOpc_reserved_isIllegal (h : 0x08 ≤ opc.toNat) : isIllegal (decodeOpc opc) = true := by
  rw [decodeOpc_reserved h]
  split_ifs <;> rfl

/-- The operation codes below 0x08 are those of the eight commands. -/
theorem opc_of_lt (h : opc.toNat < 0x08) :
    opc = 0x00 ∨ opc = 0x01 ∨ opc = 0x02 ∨ opc = 0x03 ∨ opc = 0x04 ∨ opc = 0x05 ∨ opc = 0x06 ∨ opc = 0x07 := by
  bv_omega

/-- The decoder of an operation code gives well-formed instructions only: it never gives the row of RSV ≠ 0. -/
theorem decodeOpc_wellFormed (opc : BitVec 8) : (decodeOpc opc).wellFormed = true := by
  rcases lt_or_ge opc.toNat 0x08 with hc | hi
  · rcases opc_of_lt hc with rfl | rfl | rfl | rfl | rfl | rfl | rfl | rfl <;> rfl
  · rw [decodeOpc_reserved hi]
    split_ifs <;> rfl

/-- A word with RSV = 0 is the word of the instruction that its operation code decodes to. -/
theorem encode_decodeOpc (hr : rsvOf w = 0) : encode (decodeOpc (opcOf w)) = w := by
  rcases lt_or_ge (opcOf w).toNat 0x08 with hc | hi
  · have command : encode (decodeOpc (opcOf w)) = (opcOf w).setWidth 32 := by
      rcases opc_of_lt hc with e | e | e | e | e | e | e | e <;> rw [e] <;> rfl
    rw [command, setWidth_opcOf hr]
  · have hopc : (opcOf w).toNat < 0x100 := (opcOf w).isLt
    rw [decodeOpc_reserved hi]
    split_ifs with h10 h20 h40 h80
    · rw [encode_illegalOpc08, leadingOne_of_opcOf (by decide) hr hi h10]
    · rw [encode_illegalOpc10, leadingOne_of_opcOf (by decide) hr (not_lt.1 h10) h20]
    · rw [encode_illegalOpc20, leadingOne_of_opcOf (by decide) hr (not_lt.1 h20) h40]
    · rw [encode_illegalOpc40, leadingOne_of_opcOf (by decide) hr (not_lt.1 h40) h80]
    · rw [encode_illegalOpc80, leadingOne_of_opcOf (by decide) hr (not_lt.1 h80) hopc]

/-- `row` is the row of the operation codes whose leading one is at bit `k`, its free bits those below. -/
def DecodesLeadingOne (k : Nat) (row : BitVec k → Instr) : Prop :=
  ∀ opc : BitVec 8, 2 ^ k ≤ opc.toNat → opc.toNat < 2 ^ (k + 1) → decodeOpc opc = row (opc.extractLsb' 0 k)

theorem decodesLeadingOne_illegalOpc08 : DecodesLeadingOne 3 .illegalOpc08 := fun _ hlow hhigh => by
  rw [decodeOpc_reserved hlow, if_pos (by omega)]

theorem decodesLeadingOne_illegalOpc10 : DecodesLeadingOne 4 .illegalOpc10 := fun _ hlow hhigh => by
  rw [decodeOpc_reserved (by omega), if_neg (by omega), if_pos (by omega)]

theorem decodesLeadingOne_illegalOpc20 : DecodesLeadingOne 5 .illegalOpc20 := fun _ hlow hhigh => by
  rw [decodeOpc_reserved (by omega), if_neg (by omega), if_neg (by omega), if_pos (by omega)]

theorem decodesLeadingOne_illegalOpc40 : DecodesLeadingOne 6 .illegalOpc40 := fun _ hlow hhigh => by
  rw [decodeOpc_reserved (by omega), if_neg (by omega), if_neg (by omega), if_neg (by omega), if_pos (by omega)]

theorem decodesLeadingOne_illegalOpc80 : DecodesLeadingOne 7 .illegalOpc80 := fun _ hlow _ => by
  rw [decodeOpc_reserved (by omega), if_neg (by omega), if_neg (by omega), if_neg (by omega), if_neg (by omega)]

/-- The word of a leading one and free bits decodes to its row with these free bits. -/
theorem DecodesLeadingOne.decode_leadingOne {k : Nat} {row : BitVec k → Instr} (h : DecodesLeadingOne k row) (hk : k < 8)
    (low : BitVec k) : decode (leadingOne k low) = row low := by
  have hopc := opcOf_leadingOne_toNat hk low
  have hlow : low.toNat < 2 ^ k := low.isLt
  rw [decode_opc (rsvOf_leadingOne hk low), h _ (by omega) (by omega), low_of_leadingOne hk]

end Decoder

/-- Settles O1, row by row: the free bits of a reserved operation code are those below its leading one. -/
theorem decodeOfEncode : Obligations.DecodeOfEncode := by
  unfold Obligations.DecodeOfEncode
  intro i hi
  cases i with
  | nop | keyLoad | blockEnc | blockDec | chainInitEnc | chainInitDec | chainCrypt | clear => decide
  | illegalOpc08 low => rw [encode_illegalOpc08, decodesLeadingOne_illegalOpc08.decode_leadingOne (by decide)]
  | illegalOpc10 low => rw [encode_illegalOpc10, decodesLeadingOne_illegalOpc10.decode_leadingOne (by decide)]
  | illegalOpc20 low => rw [encode_illegalOpc20, decodesLeadingOne_illegalOpc20.decode_leadingOne (by decide)]
  | illegalOpc40 low => rw [encode_illegalOpc40, decodesLeadingOne_illegalOpc40.decode_leadingOne (by decide)]
  | illegalOpc80 low => rw [encode_illegalOpc80, decodesLeadingOne_illegalOpc80.decode_leadingOne (by decide)]
  | illegalRsv w => exact decode_rsv (bne_iff_ne.1 hi)

/-- Settles O2: a word with RSV ≠ 0 is kept whole, and every other word is its operation code. -/
theorem encodeOfDecode : Obligations.EncodeOfDecode := by
  unfold Obligations.EncodeOfDecode
  intro w
  by_cases hr : rsvOf w = 0
  · rw [decode_opc hr]
    exact ⟨decodeOpc_wellFormed _, encode_decodeOpc hr⟩
  · rw [decode_rsv hr]
    exact ⟨bne_iff_ne.2 hr, rfl⟩

/-- Settles O3: the catch-all row by RSV, the eight commands by their operation codes, the reserved codes by their leading one. -/
theorem decodeFollowsOpcodeMap : Obligations.DecodeFollowsOpcodeMap := by
  unfold Obligations.DecodeFollowsOpcodeMap
  refine fun w => ⟨fun hr => by rw [decode_rsv hr]; rfl, fun hr => ?_⟩
  rw [decode_opc hr]
  have command {c : BitVec 8} {i : Instr} (hi : decodeOpc c = i) (hc : opcOf w = c) : decodeOpc (opcOf w) = i := by rw [hc, hi]
  exact ⟨command rfl, command rfl, command rfl, command rfl, command rfl, command rfl, command rfl, command rfl,
    decodeOpc_reserved_isIllegal⟩

/-- The decoder of table words reads a well-formed instruction from its word. -/
theorem decodeTableWord_encode (i : Instr) (hi : i.wellFormed = true) : decodeTableWord 32 (encode i).toNat = some i := by
  rw [decodeTableWord, if_pos ⟨le_rfl, (encode i).isLt⟩, BitVec.ofNat_toNat, BitVec.setWidth_eq, decodeOfEncode i hi]

/-- Settles O4: each of the ten words is the word of its instruction. -/
theorem tableWordsDecode : Obligations.TableWordsDecode := by
  unfold Obligations.TableWordsDecode
  exact ⟨decodeTableWord_encode .nop rfl, decodeTableWord_encode .keyLoad rfl, decodeTableWord_encode .blockEnc rfl,
    decodeTableWord_encode .chainInitEnc rfl, decodeTableWord_encode .chainCrypt rfl, decodeTableWord_encode .clear rfl,
    decodeTableWord_encode (.illegalOpc08 0) rfl, decodeTableWord_encode (.illegalOpc80 0x7F) rfl,
    decodeTableWord_encode (.illegalRsv 0x00000106) rfl, decodeTableWord_encode (.illegalRsv 0x80000001) rfl⟩

end Sys2Proof.Proofs
end

section
/-! PROOFS. The step and the command it runs (spec 30_encoding.md R83, R84; 60_exceptions.md R200, R202, R226; 70_reset_and_hazards.md
R256), and how an illegal word ends. -/

namespace Sys2Proof.Proofs

open Sys2Proof.Machine Sys2Proof.Safety

/-! ### The step -/

section Step

variable {s : State}

theorem step_alone (h : s.inputs = []) : step s = engineAlone s := by
  rw [step, h]

theorem engineAlone_busy (h : s.busy = true) : engineAlone s = exec (fetch s) s := if_pos h

theorem engineAlone_of_not_busy (h : s.busy = false) : engineAlone s = .next s := if_neg (by simp [h])

theorem engineTurn_busy (n : Nat) (h : s.busy = true) : engineTurn n s = execFor n (fetch s) s := if_pos h

theorem engineTurn_of_not_busy (n : Nat) (h : s.busy = false) : engineTurn n s = .next s := if_neg (by simp [h])

/-- The word placed by `withFetchWord` is the one fetched (log 2). -/
theorem fetch_withFetchWord (s : State) {i : Instr} (hi : i.wellFormed = true) :
    fetch (s.withFetchWord 32 (encode i).toNat) = i :=
  calc fetch (s.withFetchWord 32 (encode i).toNat)
    _ = decode (BitVec.ofNat 32 (encode i).toNat) := rfl
    _ = decode (encode i) := by rw [BitVec.ofNat_toNat, BitVec.setWidth_eq]
    _ = i := decodeOfEncode i hi

/-- The step after `withFetchWord` runs the instruction whose word was placed. -/
theorem step_withFetchWord (s : State) {i : Instr} (hi : i.wellFormed = true) :
    step (s.withFetchWord 32 (encode i).toNat) = exec i (s.withFetchWord 32 (encode i).toNat) := by
  rw [step_alone rfl, engineAlone_busy rfl, fetch_withFetchWord s hi]

end Step

/-- Settles O5: the engine alone runs what it fetches, an event is the first thing that happens, and a placed word is fetched. -/
theorem stepRunsTheDecodedCommand : Obligations.StepRunsTheDecodedCommand := by
  unfold Obligations.StepRunsTheDecodedCommand
  rintro s i rfl hi
  refine ⟨fun h busy => ?alone, fun h idle => ?idle, fun e rest => step_event, fun n rest h => ?turn,
    fun _ _ _ => step_event, fun _ _ _ _ => step_event, fun _ _ _ => step_event, fun _ _ => step_event,
    fun _ _ => step_event, fun _ _ => step_event, fun _ _ _ => step_event, fun _ => step_event, step_withFetchWord s hi⟩
  case alone => rw [step_alone h, engineAlone_busy busy, fetch]
  case idle => rw [step_alone h, engineAlone_of_not_busy idle]
  case turn =>
    rw [step_event h, happen]
    exact ⟨engineTurn_busy (s := { s with inputs := rest }) n, engineTurn_of_not_busy (s := { s with inputs := rest }) n⟩

/-! ### Illegal words -/

theorem exec_of_isIllegal {i : Instr} (h : isIllegal i = true) (s : State) : exec i s = .next (raiseIllegal s) := by
  cases i with
  | illegalOpc08 | illegalOpc10 | illegalOpc20 | illegalOpc40 | illegalOpc80 | illegalRsv => rfl
  | _ => cases h

theorem raiseIllegal_eq_endedWith (s : State) : raiseIllegal s = endedWith .illegalCommand .none s.lCmd s := rfl

/-- Settles O15: the six rows have one meaning, the error with the whole word. -/
theorem illegalWordEndsWithIllegalCommand : Obligations.IllegalWordEndsWithIllegalCommand := by
  unfold Obligations.IllegalWordEndsWithIllegalCommand
  intro i s hi
  rw [exec_of_isIllegal hi, raiseIllegal_eq_endedWith]

end Sys2Proof.Proofs
end

section
/-! PROOFS. KEY_LOAD (spec 40_key_schedule.md R110, R111; 60_exceptions.md R204 to R206): its checks, what its accesses can change, the
key it stores. -/

namespace Sys2Proof.Proofs

open Sys2Proof.Machine Sys2Proof.Safety

section KeyLoad

variable {s t : State}

/-! ### The checks -/

theorem validated_fails {check : Option Report} {r : Report} {buffers : List (Nat × Nat)} {work : Answer} (h : check = some r) :
    validated check buffers s work = .next (raiseError r s) := by
  rw [h, validated]

theorem checkKeyLoad_length (h : s.latch.keyLen ≠ 18) :
    checkKeyLoad s = some ⟨.invalidKeySize, .key, s.latch.keyLen⟩ := by
  rw [checkKeyLoad, firstFailed_cons, if_pos (bne_iff_ne.2 h)]

theorem checkKeyLoad_range (hlen : s.latch.keyLen = 18) (h : 2 ^ 32 < keyBase s + 18) :
    checkKeyLoad s = some ⟨.addressRange, .key, s.latch.keyAddr⟩ := by
  have hout : outOfRange s.latch.keyAddr 18 = true := decide_eq_true ⟨by decide, h⟩
  simp [checkKeyLoad, firstFailed_cons, hlen, hout]

theorem checkKeyLoad_of_passes (h : KeyPasses s) : checkKeyLoad s = none := by
  obtain ⟨hlen, htop, -⟩ := h
  exact (checkKeyLoad_eq_none s).2 ⟨hlen, outOfRange_eq_false.2 fun _ => htop⟩

theorem exec_keyLoad_fails {r : Report} (h : checkKeyLoad s = some r) :
    exec .keyLoad s = .next (endedWith r.err r.arg r.info s) := by
  rw [exec_keyLoad, keyLoadFor, validated_fails h]
  rfl

/-! ### The accesses -/

/-- `u` differs from `s` in KB and IDX only: all that KEY_LOAD changes before it ends (R64, R111). -/
def GathersKey (s u : State) : Prop := u = { s with kb := u.kb, idx := u.idx }

theorem gathersKey_refl (s : State) : GathersKey s s := rfl

theorem keyByte_keeps_gathersKey {u v : State} (hu : GathersKey s u) (h : keyByte u = .going v) : GathersKey s v := by
  obtain ⟨-, e⟩ | ⟨-, e⟩ | ⟨b, -, e⟩ := keyByte_cases u <;> rw [e] at h <;> cases h
  rw [hu]
  rfl

/-- KEY_LOAD ends with an error where only KB and IDX have changed, or gathers its bytes and commits them. -/
theorem exec_keyLoad_cases (h : exec .keyLoad s = .next t) :
    ∃ u, GathersKey s u ∧ ((∃ r, t = raiseError r u) ∨ t = complete (commitKey u)) := by
  have keep (_ : Nat) (u v : State) : GathersKey s u → keyByte u = .going v → GathersKey s v := keyByte_keeps_gathersKey
  rw [exec_keyLoad, keyLoadFor] at h
  obtain ⟨r, -, e⟩ | ⟨-, -, e⟩ | ⟨-, -, e⟩ := validated_cases (checkKeyLoad s) [(s.latch.keyAddr.toNat, 18)] s
    (workFor keyByte commitKey (18 - s.idx.toNat + 1) (18 - s.idx.toNat) s) <;> rw [e] at h
  · cases h
    exact ⟨s, gathersKey_refl s, .inl ⟨r, rfl⟩⟩
  · cases h
  · rw [workFor_whole] at h
    cases hr : runAccesses keyByte (18 - s.idx.toNat) s with
    | going u =>
      rw [hr] at h
      cases h
      exact ⟨u, runAccesses_going_induction (P := fun _ => GathersKey s) keep _ s u (gathersKey_refl s) hr, .inr rfl⟩
    | ended u =>
      rw [hr] at h
      cases h
      obtain ⟨-, v, hv, hend⟩ := runAccesses_ended_induction (P := fun _ => GathersKey s) keep _ s t (gathersKey_refl s) hr
      obtain ⟨-, e⟩ | ⟨-, e⟩ | ⟨b, -, e⟩ := keyByte_cases v <;> rw [e] at hend <;> cases hend
      exact ⟨v, hv, .inl ⟨_, rfl⟩⟩
    | stuck f =>
      rw [hr] at h
      cases h

/-- The work of KEY_LOAD when it passes its checks. -/
theorem exec_keyLoad_passes (h : KeyPasses s) :
    exec .keyLoad s = workFor keyByte commitKey (18 - s.idx.toNat + 1) (18 - s.idx.toNat) s := by
  have hcheck := checkKeyLoad_of_passes h
  obtain ⟨-, -, hside⟩ := h
  rw [exec_keyLoad, keyLoadFor]
  exact validated_passes hcheck (by simpa [keyBase] using hside)

end KeyLoad

/-! ### The statements -/

/-- Settles O20: the first check that fails is the report. -/
theorem keyLoadChecksInOrder : Obligations.KeyLoadChecksInOrder := by
  unfold Obligations.KeyLoadChecksInOrder
  exact fun s => ⟨fun hlen => exec_keyLoad_fails (checkKeyLoad_length hlen),
    fun hlen hrange => exec_keyLoad_fails (checkKeyLoad_range hlen hrange)⟩

/-- Settles O24: a command that committed its bytes has no error, and before that only KB and IDX change. -/
theorem failedKeyLoadKeepsKey : Obligations.FailedKeyLoadKeepsKey := by
  unfold Obligations.FailedKeyLoadKeepsKey
  intro s t herr h hfail
  obtain ⟨u, hu, ⟨r, rfl⟩ | rfl⟩ := exec_keyLoad_cases h
  · rw [hu]
    exact ⟨rfl, rfl, rfl, rfl, rfl, rfl, rfl⟩
  · rw [hu] at hfail
    exact absurd herr hfail

/-- Settles O16: all 18 accesses go on, and the bytes gathered in KB are committed. -/
theorem keyLoadStoresTheKey : Obligations.KeyLoadStoresTheKey := by
  unfold Obligations.KeyLoadStoresTheKey
  intro s hidx hp hA
  obtain ⟨kb, hkb, hrun⟩ := runAccesses_key hidx hA le_rfl
  refine ⟨kb, ?_, fun k hk => hkb k hk hk⟩
  rw [exec_keyLoad_passes hp, hidx]
  exact workFor_whole_going hrun

end Sys2Proof.Proofs
end

section
/-! PROOFS. The segments of the key and the indices (spec 40_key_schedule.md R101, R102, R104; 00_scope.md R11): segments and messages
byte by byte, and what is left of them modulo 3 and modulo 4. -/

namespace Sys2Proof.Proofs

open Sys2Proof.Machine Sys2Proof.Safety

/-! ### Little-endian integers -/

theorem fromLE_cons (b : Byte) (bs : List Byte) : fromLE (b :: bs) = b.toNat + 256 * fromLE bs := rfl

theorem fromLE_lt (bs : List Byte) : fromLE bs < 256 ^ bs.length := by
  induction bs with
  | nil => decide
  | cons b bs ih =>
    have hb := b.isLt
    rw [fromLE_cons, List.length_cons, pow_succ]
    omega

@[simp] theorem toLE_length (k n : Nat) : (toLE k n).length = k := by
  induction k generalizing n with
  | zero => rfl
  | succ k ih => rw [toLE, List.length_cons, ih]

theorem toLE_getElem? {i k : Nat} (n : Nat) (h : i < k) : (toLE k n)[i]? = some (BitVec.ofNat 8 (n / 256 ^ i)) := by
  induction k generalizing i n with
  | zero => omega
  | succ k ih =>
    cases i with
    | zero => simp [toLE]
    | succ i => rw [toLE, List.getElem?_cons_succ, ih _ (by omega), Nat.div_div_eq_div_mul, ← pow_succ']

/-! ### Segments -/

section Segments

variable (key : Vector Byte 18)

/-- Segment `j` is the six key bytes from `6 j` on, the first the least significant (R101). -/
theorem segment_eq (j : Fin 3) :
    segment key j =
      key[6 * j.val].toNat + key[6 * j.val + 1].toNat * 256 + key[6 * j.val + 2].toNat * 256 ^ 2 +
        key[6 * j.val + 3].toNat * 256 ^ 3 + key[6 * j.val + 4].toNat * 256 ^ 4 + key[6 * j.val + 5].toNat * 256 ^ 5 := by
  have hbytes : (key.toList.drop (6 * j.val)).take 6 =
      [key[6 * j.val], key[6 * j.val + 1], key[6 * j.val + 2], key[6 * j.val + 3], key[6 * j.val + 4], key[6 * j.val + 5]] := by
    apply List.ext_getElem
    · simp only [List.length_take, List.length_drop, Vector.length_toList, List.length_cons, List.length_nil]
      omega
    · intro k _ (hk : k < 6)
      interval_cases k <;> simp
  rw [Machine.segment, hbytes]
  simp only [fromLE]
  ring

theorem segment_lt (j : Fin 3) : segment key j < 2 ^ 48 := by
  calc segment key j < 256 ^ ((key.toList.drop (6 * j.val)).take 6).length := fromLE_lt _
    _ ≤ 256 ^ 6 := Nat.pow_le_pow_right (by decide) (List.length_take_le _ _)

end Segments

/-! ### Indices -/

section Indices

variable (a : Three Nat)

theorem mixOf_ch0 : ((mixOf a).ch0 : Nat) = (a.ch0 + a.ch1 + a.ch2) % 3 := by
  simp [mixOf, Nat.add_mod]

theorem mixOf_ch1 : ((mixOf a).ch1 : Nat) = (a.ch0 * a.ch1 + a.ch2) % 3 := by
  simp [mixOf, Nat.add_mod, Nat.mul_mod]

theorem mixOf_ch2 : ((mixOf a).ch2 : Nat) = (a.ch0 + a.ch1 * a.ch2) % 3 := by
  simp [mixOf, Nat.add_mod, Nat.mul_mod]

theorem tapMessage_length (i : Fin 3) : (tapMessage a i).length = 24 := by simp [tapMessage]

/-- Byte `8 j + k` of the message is byte `k` of the multiple of segment `j` (R104). -/
theorem tapMessage_getElem? (i j : Fin 3) {k : Nat} (hk : k < 8) :
    (tapMessage a i)[8 * j.val + k]? = some (BitVec.ofNat 8 ((i.val + 1) * a.get j / 256 ^ k)) := by
  have hbyte := fun l => toLE_getElem? ((i.val + 1) * l) hk
  match j with
  | 0 =>
    rw [tapMessage, List.append_assoc, List.getElem?_append_left (by simpa using hk), ← hbyte]
    simp [Three.get]
  | 1 =>
    rw [tapMessage, List.append_assoc, List.getElem?_append_right (by simp), List.getElem?_append_left (by simpa using hk), ← hbyte]
    simp [Three.get]
  | 2 =>
    rw [tapMessage, List.getElem?_append_right (by simp), ← hbyte]
    simp [Three.get]

/-- Modulo 4 only the least significant byte of the digest word counts (R104). -/
theorem digestWord_be_mod_four (h : Digest) : digestWord .be h % 4 = h.h3.toNat % 4 := by
  simp only [digestWord]
  omega

theorem digestWord_le_mod_four (h : Digest) : digestWord .le h % 4 = h.h0.toNat % 4 := by
  simp only [digestWord]
  omega

theorem tapOf_val (c : Setup) (i : Fin 3) :
    (tapOf c a i).val = digestWord (tapWordOrder c) (tapHash c (tapMessage a i)) % 4 := rfl

end Indices

/-- Settles O37: the segments byte by byte, and the indices from the three segments. -/
theorem keySegmentsGiveMixAndTapIndices : Obligations.KeySegmentsGiveMixAndTapIndices := by
  unfold Obligations.KeySegmentsGiveMixAndTapIndices
  intro c key
  refine ⟨segment_lt key, segment_eq key 0, segment_eq key 1, segment_eq key 2, mixOf_ch0 _, mixOf_ch1 _, mixOf_ch2 _, fun i => ?_⟩
  have htap : ((keySchedule c key).tap.get i).val =
      digestWord (tapWordOrder c) (tapHash c (tapMessage (Three.ofFn (segment key)) i)) % 4 := by
    rw [← tapOf_val, ← get_ofFn (tapOf c _) i]
    rfl
  refine ⟨tapMessage (Three.ofFn (segment key)) i, tapMessage_length _ i, fun j k hk => ?_, fun hbe => ?_, fun hle => ?_⟩
  · rw [tapMessage_getElem? _ i j hk, get_ofFn]
    congr 1
    exact BitVec.eq_of_toNat_eq (by simp)
  · rw [htap, hbe, digestWord_be_mod_four]
  · rw [htap, hle, digestWord_le_mod_four]

end Sys2Proof.Proofs
end

section
/-! PROOFS. The positions of the key schedule (spec 40_key_schedule.md R103, R107): rounding does not pass a binary64 value, so bounds
that binary64 holds exactly go through the conversion, the division and the sum. -/

namespace Sys2Proof.Proofs

open Sys2Proof.Machine Sys2Proof.Safety

/-! ### Rounding between finite values -/

/-- Every finite value lies below the overflow bound. -/
theorem abs_fVal_lt_overflowBound {c : F64} (hc : Safety.Finite c) : |fVal c| < overflowBound := by
  have hm : (fMant c : ℚ) ≤ 2 ^ 53 - 1 := by
    have : fMant c + 1 ≤ 2 ^ 53 := fMant_lt c
    have : (fMant c : ℚ) + 1 ≤ 2 ^ 53 := by exact_mod_cast this
    linarith
  have he : fExp c < 2 ^ 11 := (c.extractLsb' 52 11).isLt
  have hp : fPow c ≤ 971 := by
    rw [Safety.Finite] at hc
    rw [fPow]
    omega
  calc |fVal c| = fMant c * 2 ^ fPow c := abs_fVal c
    _ ≤ (2 ^ 53 - 1) * 2 ^ (971 : ℤ) := by gcongr; norm_num
    _ < overflowBound := by
      have hu : (0 : ℚ) < 2 ^ 970 := pow_pos two_pos _
      rw [overflowBound, show (971 : ℤ) = (970 : ℕ) + 1 by norm_num, zpow_add_one₀ two_ne_zero, zpow_natCast]
      generalize (2 : ℚ) ^ 970 = u at hu ⊢
      linarith

/-- Rounding does not pass a finite value (R9). -/
theorem roundsTo_between {r lo hi : F64} {x : ℚ} (h : RoundsTo r x) (hlo : Safety.Finite lo) (hhi : Safety.Finite hi)
    (hl : fVal lo ≤ x) (hu : x ≤ fVal hi) :
    Safety.Finite r ∧ fVal lo ≤ fVal r ∧ fVal r ≤ fVal hi := by
  obtain ⟨hin, -⟩ := h
  have hlt : |x| < overflowBound := by
    have := (abs_lt.1 (abs_fVal_lt_overflowBound hlo)).1
    have := (abs_lt.1 (abs_fVal_lt_overflowBound hhi)).2
    exact abs_lt.2 ⟨by linarith, by linarith⟩
  obtain ⟨hfin, hnear⟩ := hin hlt
  have hnl := (hnear lo hlo).1
  have hnu := (hnear hi hhi).1
  rw [abs_of_nonpos (sub_nonpos.2 hl)] at hnl
  rw [abs_of_nonneg (sub_nonneg.2 hu)] at hnu
  exact ⟨hfin, by linarith [neg_abs_le (fVal r - x)], by linarith [le_abs_self (fVal r - x)]⟩

theorem fOfNat_roundsTo (n : Nat) : RoundsTo (fOfNat n) n := by
  simpa [fOfNat] using fRound_roundsTo false n 0 one_ne_zero

theorem fAdd_roundsTo {a b : F64} (ha : Safety.Finite a) (hb : Safety.Finite b) : RoundsTo (fAdd a b) (fVal a + fVal b) := by
  rw [fAdd_of_finite ha hb]
  exact fAddFinite_roundsTo a b

/-! ### Positions -/

/-- The numeric parameters of R6, R7, each at its default. -/
abbrev defaults : Numerics := {}

/-- A bound of every scaled segment: 923 / 2^15, a little above 2^48 / 10^16. -/
def seedBound : F64 := 0x3F9CD80000000000#64

/-- A bound of every position: its default offset plus 923 / 2^15, which binary64 holds exactly. -/
def seedTop : Three F64 := ⟨0x3FF0736000000000#64, 0x400839B000000000#64, 0x403E073600000000#64⟩

theorem seedTop_eq : ∀ j, fVal (seedTop.get j) = fVal (defaults.seedOff.get j) + fVal seedBound := by decide +kernel

theorem fVal_seedOff : fVal (defaults.seedOff.get 0) = 1 ∧ fVal (defaults.seedOff.get 1) = 3 ∧ fVal (defaults.seedOff.get 2) = 30 := by
  decide +kernel

theorem fVal_seedTop_lt :
    fVal (seedTop.get 0) < 1.0282 ∧ fVal (seedTop.get 1) < 3.0282 ∧ fVal (seedTop.get 2) < 30.0282 := by
  decide +kernel

theorem finite_seedTop : ∀ j, Safety.Finite (seedTop.get j) := by decide +kernel

theorem finite_seedOff : ∀ j, Safety.Finite (defaults.seedOff.get j) := by decide +kernel

/-- The conversion of a segment lies between 0 and 2^48. -/
theorem fOfNat_between {n : Nat} (h : n < 2 ^ 48) :
    Safety.Finite (fOfNat n) ∧ 0 ≤ fVal (fOfNat n) ∧ fVal (fOfNat n) ≤ 2 ^ 48 := by
  have hn : (n : ℚ) ≤ 2 ^ 48 := by exact_mod_cast h.le
  have htop : fVal 0x42F0000000000000#64 = 2 ^ 48 := by decide +kernel
  have hb := roundsTo_between (fOfNat_roundsTo n) (lo := fZero false) (hi := 0x42F0000000000000#64) (by decide) (by decide)
    (by simp) (by rwa [htop])
  rwa [fVal_fZero, htop] at hb

/-- A segment scaled by the default SEED_DIV, which is 10^16. -/
theorem fDiv_seedDiv_between {n : Nat} (h : n < 2 ^ 48) :
    let q := fDiv (fOfNat n) defaults.seedDiv
    Safety.Finite q ∧ 0 ≤ fVal q ∧ fVal q ≤ fVal seedBound := by
  obtain ⟨hfin, h0, htop⟩ := fOfNat_between h
  have hdiv : fVal defaults.seedDiv = 10 ^ 16 := by decide +kernel
  have hbound : fVal seedBound = 923 / 32768 := by decide +kernel
  have hround := fDiv_roundsTo hfin (b := defaults.seedDiv) (by decide) (by rw [hdiv]; norm_num)
  rw [hdiv] at hround
  have hb := roundsTo_between hround (lo := fZero false) (hi := seedBound) (by decide) (by decide)
    (by rw [fVal_fZero]; positivity) (by rw [hbound]; linarith)
  rwa [fVal_fZero] at hb

/-- Every position lies between its default offset and `seedTop` (R107). -/
theorem seedPos_between {a : Three Nat} {j : Fin 3} (h : a.get j < 2 ^ 48) :
    Safety.Finite (seedPos defaults a j) ∧ fVal (defaults.seedOff.get j) ≤ fVal (seedPos defaults a j) ∧
      fVal (seedPos defaults a j) ≤ fVal (seedTop.get j) := by
  obtain ⟨hfin, h0, htop⟩ := fDiv_seedDiv_between h
  refine roundsTo_between (fAdd_roundsTo hfin (finite_seedOff j)) (finite_seedOff j) (finite_seedTop j) ?_ ?_
  · linarith
  · rw [seedTop_eq]
    linarith

theorem keySchedule_pos (c : Setup) (key : Vector Byte 18) (j : Fin 3) :
    (keySchedule c key).pos.get j = seedPos c.numerics (Three.ofFn (segment key)) j := get_ofFn _ j

/-- A segment of zero leaves the default offset, by evaluation of each channel (R103). -/
theorem seed_of_zero : ∀ j, fAdd (fDiv (fOfNat 0) defaults.seedDiv) (defaults.seedOff.get j) =
    defaults.seedOff.get j := by decide +kernel

/-- Settles O44: a scaled segment is at most 923 / 2^15, and rounding the sum passes neither the offset nor `seedTop`. -/
theorem seedPositionsLieInTheirRanges : Obligations.SeedPositionsLieInTheirRanges := by
  unfold Obligations.SeedPositionsLieInTheirRanges
  intro c key p
  have hpos (j : Fin 3) : p.get j = fAdd (fDiv (fOfNat (segment key j)) c.numerics.seedDiv) (c.numerics.seedOff.get j) := by
    rw [keySchedule_pos, seedPos, get_ofFn]
  refine ⟨hpos, fun hnum => ?_⟩
  have hrange (j : Fin 3) : Safety.Finite (p.get j) ∧ fVal (defaults.seedOff.get j) ≤ fVal (p.get j) ∧
      fVal (p.get j) ≤ fVal (seedTop.get j) := by
    rw [keySchedule_pos, hnum]
    exact seedPos_between (by rw [get_ofFn]; exact segment_lt key j)
  obtain ⟨hfin0, hlow0, hup0⟩ := hrange 0
  obtain ⟨hfin1, hlow1, hup1⟩ := hrange 1
  obtain ⟨hfin2, hlow2, hup2⟩ := hrange 2
  obtain ⟨hoff0, hoff1, hoff2⟩ := fVal_seedOff
  obtain ⟨htop0, htop1, htop2⟩ := fVal_seedTop_lt
  refine ⟨⟨hfin0, hoff0.ge.trans hlow0, hup0.trans_lt htop0⟩, ⟨hfin1, hoff1.ge.trans hlow1, hup1.trans_lt htop1⟩,
    ⟨hfin2, hoff2.ge.trans hlow2, hup2.trans_lt htop2⟩, fun j hj => ?_⟩
  rw [hpos, hj, hnum, seed_of_zero]

end Sys2Proof.Proofs
end

section
/-! PROOFS. The keystream and the cascade (spec 41_keystream_cascade.md R121 to R133; 00_scope.md R10): an extraction by what its
conversion gives, a cycle part by part, the trajectory of the positions, and the worked cycle. -/

namespace Sys2Proof.Proofs

open Sys2Proof.Machine Sys2Proof.Safety

/-! ### One extraction -/

theorem byteAt_toNat (u : BitVec 64) (t : Fin 4) : (byteAt u t).toNat = u.toNat / 256 ^ t.val % 256 := by
  rw [byteAt, BitVec.extractLsb'_toNat, Nat.shiftRight_eq_div_pow, show (256 : Nat) = 2 ^ 8 from rfl, ← pow_mul]

section Extraction

variable {c : Setup} {alpha : F64}

theorem extract_of_converts {u : BitVec 64} (h : trunc64 (fMul alpha c.numerics.extScale) = some u) (t : Fin 4) (nx : Bool) (d : Nat) :
    extract c alpha t nx d = (byteAt u t, nx, d) := by
  rw [extract, h]

theorem extract_of_out_of_range (h : trunc64 (fMul alpha c.numerics.extScale) = none) (t : Fin 4) (nx : Bool) (d : Nat) :
    extract c alpha t nx d = (byteAt (cvtOor c d) t, true, drawsAfterOor c d) := by
  rw [extract, h]

end Extraction

/-- Settles O41: both outcomes of the conversion, and the byte as a quotient and a remainder. -/
theorem extractionTakesOneByte : Obligations.ExtractionTakesOneByte := by
  unfold Obligations.ExtractionTakesOneByte
  intro c alpha t nx d
  refine ⟨fun u h => ?_, fun h => ?_⟩
  · rw [extract_of_converts h]
    exact ⟨byteAt_toNat u t, rfl, rfl⟩
  · rw [extract_of_out_of_range h]
    exact ⟨byteAt_toNat _ t, rfl⟩

/-! ### One cycle, part by part -/

theorem digitOf_le (e : Three Byte) : digitOf e ≤ 765 := by
  have h0 := e.ch0.isLt
  have h1 := e.ch1.isLt
  have h2 := e.ch2.isLt
  rw [digitOf]
  omega

theorem mixStep_get_val (mix : Three (Fin 3)) (e : Three Byte) (i : Fin 3) :
    ((mixStep mix e).get i).val = ((mix.get i).val + (e.get i).toNat) % 3 := by
  rw [mixStep, get_ofFn, Fin.val_ofNat]

theorem tapStep_get_val (tap : Three (Fin 4)) (e : Three Byte) (i : Fin 3) :
    ((tapStep tap e).get i).val = ((tap.get i).val + (e.get i).toNat) % 4 := by
  rw [tapStep, get_ofFn, Fin.val_ofNat]

section Cycle

variable {c : Setup} {g : Gen} {e : Three Byte} {nx : Bool} {d : Nat}

/-- The extractions are made in the order of the channels, each from the NX and the draws of the one before (R125). -/
theorem extractAll_of_extractions {b0 b1 b2 : Byte} {nx0 nx1 : Bool} {d0 d1 : Nat}
    (h0 : extract c g.chaos.alpha.ch0 g.chaos.tap.ch0 g.nx g.draws = (b0, nx0, d0))
    (h1 : extract c g.chaos.alpha.ch1 g.chaos.tap.ch1 nx0 d0 = (b1, nx1, d1))
    (h2 : extract c g.chaos.alpha.ch2 g.chaos.tap.ch2 nx1 d1 = (b2, nx, d)) :
    extractAll c g = (⟨b0, b1, b2⟩, nx, d) := by
  simp only [extractAll, h0, h1, h2]

theorem digit_of_extractAll (h : extractAll c g = (e, nx, d)) : digit c g = digitOf e := by
  rw [digit, h]

/-- The digit and the cycle are made of the same three extractions (R130). -/
theorem updateCycle_of_extractAll (h : extractAll c g = (e, nx, d)) :
    updateCycle c g = ⟨cascade c.numerics g.chaos e, nx, d⟩ := by
  rw [updateCycle, h]

end Cycle

/-- Settles O36: the three extractions, then the digit and the cycle made of them. -/
theorem indexUpdatesAddTheExtraction : Obligations.IndexUpdatesAddTheExtraction := by
  unfold Obligations.IndexUpdatesAddTheExtraction
  intro c g r0 r1 r2 e
  have hall : extractAll c g = (e, r2.2.1, r2.2.2) := extractAll_of_extractions rfl rfl rfl
  rw [digit_of_extractAll hall, updateCycle_of_extractAll hall]
  exact ⟨hall, rfl, digitOf_le e, rfl, rfl, fun i => ⟨mixStep_get_val _ e i, tapStep_get_val _ e i⟩⟩

/-! ### The trajectory -/

/-- Step 3 reads the positions only (R131). -/
theorem updateCycle_pos (c : Setup) (g : Gen) : (updateCycle c g).chaos.pos = eulerStep c.numerics g.chaos.pos := by
  rw [updateCycle_chaos, cascade]

theorem cycles_pos (c : Setup) (g : Gen) (n : Nat) : (cycles c g n).chaos.pos = (eulerStep c.numerics)^[n] g.chaos.pos := by
  induction n with
  | zero => rfl
  | succ n ih => rw [cycles_succ, updateCycle_pos, ih, Function.iterate_succ_apply']

/-- Settles O34: the positions iterate the Euler map, so they depend on the first positions only. -/
theorem trajectoryIgnoresIndices : Obligations.TrajectoryIgnoresIndices := by
  unfold Obligations.TrajectoryIgnoresIndices
  intro c n
  refine ⟨fun x y z => rfl, fun g => cycles_pos c g n, fun g g' h => ?_⟩
  rw [cycles_pos, cycles_pos, h]

/-! ### The worked cycle -/

/-- The Chaotic State that the worked cycle starts from (R133): the positions 1, 3 and 30, and alpha by the mix indices. -/
def workedStart : Chaotic where
  pos := ⟨0x3FF0000000000000#64, 0x4008000000000000#64, 0x403E000000000000#64⟩
  mix := ⟨0, 2, 1⟩
  tap := ⟨0, 0, 0⟩
  alpha := ⟨0x3FF0000000000000#64, 0x403E000000000000#64, 0x4008000000000000#64⟩

/-- The products of 1, 30 and 3 with the default EXT_SCALE are 10^14, 3 · 10^15 and 3 · 10^14. -/
theorem worked_conversions :
    trunc64 (fMul workedStart.alpha.ch0 resetSetup.numerics.extScale) = some (BitVec.ofNat 64 (10 ^ 14)) ∧
    trunc64 (fMul workedStart.alpha.ch1 resetSetup.numerics.extScale) = some (BitVec.ofNat 64 (3 * 10 ^ 15)) ∧
    trunc64 (fMul workedStart.alpha.ch2 resetSetup.numerics.extScale) = some (BitVec.ofNat 64 (3 * 10 ^ 14)) := by
  decide +kernel

/-- Each product is a multiple of 256, so every extraction takes a zero byte and NX stays. -/
theorem worked_extractions : extractAll resetSetup ⟨workedStart, false, 0⟩ = (⟨0, 0, 0⟩, false, 0) := by
  obtain ⟨h0, h1, h2⟩ := worked_conversions
  have hall := extractAll_of_extractions (g := ⟨workedStart, false, 0⟩)
    (extract_of_converts h0 0 false 0) (extract_of_converts h1 0 false 0) (extract_of_converts h2 0 false 0)
  rw [hall]
  decide

theorem worked_eulerStep :
    eulerStep resetSetup.numerics workedStart.pos = ⟨0x3FF35C28F5C28F5C#64, 0x40075C28F5C28F5C#64, 0x403D87AE147AE148#64⟩ := by
  decide +kernel

/-- Settles O43: three extractions of zero leave the indices, and the positions take one Euler step. -/
theorem workedCycle : Obligations.WorkedCycle := by
  unfold Obligations.WorkedCycle
  refine ⟨digit_of_extractAll worked_extractions, (updateCycle_of_extractAll worked_extractions).trans ?_⟩
  rw [cascade, worked_eulerStep]
  rfl

end Sys2Proof.Proofs
end

section
/-! PROOFS. A clear STATUS.NX (spec 00_scope.md R10; 10_state.md R25; 41_keystream_cascade.md R121, R125): NX is sticky, so where it is
clear after some cycles every conversion of theirs was in range, and the digits and the Chaotic State do not depend on the draws. -/

namespace Sys2Proof.Proofs

open Sys2Proof.Machine

/-- Every conversion of a cycle from `x` is in range: the extractions are `e`, whatever NX and the draws are. -/
def Extracts (c : Setup) (x : Chaotic) (e : Three Byte) : Prop := ∀ nx d, extractAll c ⟨x, nx, d⟩ = (e, nx, d)

section NxClear

variable {c : Setup} {g g' : Gen}

/-- An extraction that leaves NX clear found it clear and drew nothing. -/
theorem extract_of_nx_clear {alpha : F64} {t : Fin 4} {nx : Bool} {d : Nat} (h : (extract c alpha t nx d).2.1 = false) :
    nx = false ∧ ∀ nx' d', extract c alpha t nx' d' = ((extract c alpha t nx d).1, nx', d') := by
  cases hu : trunc64 (fMul alpha c.numerics.extScale) with
  | none =>
    rw [extract_of_out_of_range hu] at h
    cases h
  | some u =>
    rw [extract_of_converts hu] at h ⊢
    exact ⟨h, fun nx' d' => extract_of_converts hu t nx' d'⟩

/-- A cycle that leaves NX clear found it clear, and its three conversions were in range. -/
theorem extracts_of_nx_clear (h : (updateCycle c g).nx = false) : g.nx = false ∧ ∃ e, Extracts c g.chaos e := by
  obtain ⟨h1, he2⟩ := extract_of_nx_clear h
  obtain ⟨h0, he1⟩ := extract_of_nx_clear h1
  obtain ⟨hg, he0⟩ := extract_of_nx_clear h0
  exact ⟨hg, _, fun nx d => extractAll_of_extractions (he0 nx d) (he1 nx d) (he2 nx d)⟩

/-- The digit and the next Chaotic State of a cycle that leaves NX clear depend on the Chaotic State alone. -/
theorem cycle_congr_of_nx_clear (h : (updateCycle c g).nx = false) (hx : g'.chaos = g.chaos) :
    digit c g' = digit c g ∧ (updateCycle c g').chaos = (updateCycle c g).chaos := by
  obtain ⟨-, e, he⟩ := extracts_of_nx_clear h
  have hg : extractAll c g = (e, g.nx, g.draws) := he g.nx g.draws
  rw [← hx] at he
  have hg' : extractAll c g' = (e, g'.nx, g'.draws) := he g'.nx g'.draws
  rw [digit_of_extractAll hg, digit_of_extractAll hg', updateCycle_of_extractAll hg, updateCycle_of_extractAll hg', hx]
  exact ⟨rfl, rfl⟩

/-- Where NX is clear it was clear after every earlier cycle. -/
theorem cycles_nx_clear_of_le {k n : Nat} (hk : k ≤ n) (h : (cycles c g n).nx = false) : (cycles c g k).nx = false := by
  induction n, hk using Nat.le_induction with
  | base => exact h
  | succ n _ ih => exact ih (extracts_of_nx_clear h).1

/-- Cycles that leave NX clear reach a Chaotic State that depends on the first one alone (R25). -/
theorem cycles_chaos_congr {n : Nat} (h : (cycles c g n).nx = false) (hx : g'.chaos = g.chaos) :
    (cycles c g' n).chaos = (cycles c g n).chaos := by
  induction n with
  | zero => exact hx
  | succ n ih => exact (cycle_congr_of_nx_clear h (ih (cycles_nx_clear_of_le n.le_succ h))).2

/-- And so do the digits on the way. -/
theorem digit_cycles_congr {k n : Nat} (h : (cycles c g n).nx = false) (hx : g'.chaos = g.chaos) (hk : k < n) :
    digit c (cycles c g' k) = digit c (cycles c g k) :=
  have hcycle : (cycles c g (k + 1)).nx = false := cycles_nx_clear_of_le hk h
  (cycle_congr_of_nx_clear hcycle (cycles_chaos_congr (cycles_nx_clear_of_le k.le_succ hcycle) hx)).1

end NxClear

end Sys2Proof.Proofs
end

section
/-! PROOFS. BLOCK_ENC and BLOCK_DEC (spec 42_block_cipher.md R152 to R157; 60_exceptions.md R206): the checks, the keystream, and the
laws of the single-block cipher. -/

namespace Sys2Proof.Proofs

open Sys2Proof.Machine Sys2Proof.Safety

/-! ### The checks -/

theorem outOfRange_eq_true {a : Word} {n : Nat} (hn : 0 < n) (h : 2 ^ 32 < a.toNat + n) : outOfRange a n = true :=
  decide_eq_true ⟨hn, h⟩

theorem partialOverlap_eq_true {s d n : Nat} (hn : 0 < n) (hne : s ≠ d) (hs : s < d + n) (hd : d < s + n) :
    partialOverlap s d n = true :=
  decide_eq_true ⟨hn, hne, hs, hd⟩

/-- A check that passes hands over to the next one. -/
theorem firstFailed_pass {b : Bool} {r : Report} {rest : List (Bool × Report)} (h : b = false) :
    firstFailed ((b, r) :: rest) = firstFailed rest := by
  rw [firstFailed_cons, h, if_neg Bool.false_ne_true]

/-- A check that fails is the report. -/
theorem firstFailed_fail {b : Bool} {r : Report} {rest : List (Bool × Report)} (h : b = true) :
    firstFailed ((b, r) :: rest) = some r := by
  rw [firstFailed_cons, if_pos h]

section Checks

variable {s : State}

theorem checkBlock_noKey (hk : s.keyValid = false) : checkBlock s = some ⟨.noKey, .none, 0⟩ :=
  firstFailed_fail (by rw [hk, Bool.not_false])

/-- With a key, the checks go on with the lengths. -/
theorem checkBlock_of_key (hk : s.keyValid = true) :
    checkBlock s = firstFailed
      [ (decide (s.latch.srcLen.toNat < 16), ⟨.bufferTooShort, .source, s.latch.srcLen⟩),
        (decide (s.latch.dstLen.toNat < 16), ⟨.bufferTooShort, .destination, s.latch.dstLen⟩),
        (outOfRange s.latch.srcAddr 16, ⟨.addressRange, .source, s.latch.srcAddr⟩),
        (outOfRange s.latch.dstAddr 16, ⟨.addressRange, .destination, s.latch.dstAddr⟩),
        (partialOverlap (src s) (dst s) 16, ⟨.bufferOverlap, .destination, s.latch.dstAddr⟩) ] :=
  firstFailed_pass (by rw [hk, Bool.not_true])

theorem checkBlock_srcLen (hk : s.keyValid = true) (hs : s.latch.srcLen.toNat < 16) :
    checkBlock s = some ⟨.bufferTooShort, .source, s.latch.srcLen⟩ := by
  rw [checkBlock_of_key hk, firstFailed_fail (decide_eq_true hs)]

theorem checkBlock_dstLen (hk : s.keyValid = true) (hs : 16 ≤ s.latch.srcLen.toNat) (hd : s.latch.dstLen.toNat < 16) :
    checkBlock s = some ⟨.bufferTooShort, .destination, s.latch.dstLen⟩ := by
  rw [checkBlock_of_key hk, firstFailed_pass (decide_eq_false hs.not_gt), firstFailed_fail (decide_eq_true hd)]

section Lengths

variable (hk : s.keyValid = true) (hs : 16 ≤ s.latch.srcLen.toNat) (hd : 16 ≤ s.latch.dstLen.toNat)
include hk hs hd

/-- With a key and both lengths, the checks go on with the addresses. -/
theorem checkBlock_of_lengths :
    checkBlock s = firstFailed
      [ (outOfRange s.latch.srcAddr 16, ⟨.addressRange, .source, s.latch.srcAddr⟩),
        (outOfRange s.latch.dstAddr 16, ⟨.addressRange, .destination, s.latch.dstAddr⟩),
        (partialOverlap (src s) (dst s) 16, ⟨.bufferOverlap, .destination, s.latch.dstAddr⟩) ] := by
  rw [checkBlock_of_key hk, firstFailed_pass (decide_eq_false hs.not_gt), firstFailed_pass (decide_eq_false hd.not_gt)]

theorem checkBlock_srcAddr (hsa : 2 ^ 32 < src s + 16) : checkBlock s = some ⟨.addressRange, .source, s.latch.srcAddr⟩ := by
  rw [checkBlock_of_lengths hk hs hd, firstFailed_fail (outOfRange_eq_true (by decide) hsa)]

theorem checkBlock_dstAddr (hsa : src s + 16 ≤ 2 ^ 32) (hda : 2 ^ 32 < dst s + 16) :
    checkBlock s = some ⟨.addressRange, .destination, s.latch.dstAddr⟩ := by
  rw [checkBlock_of_lengths hk hs hd, firstFailed_pass (outOfRange_eq_false.2 fun _ => hsa),
    firstFailed_fail (outOfRange_eq_true (by decide) hda)]

theorem checkBlock_overlap (hsa : src s + 16 ≤ 2 ^ 32) (hda : dst s + 16 ≤ 2 ^ 32) (hne : src s ≠ dst s)
    (hlt : src s < dst s + 16) (hgt : dst s < src s + 16) :
    checkBlock s = some ⟨.bufferOverlap, .destination, s.latch.dstAddr⟩ := by
  rw [checkBlock_of_lengths hk hs hd, firstFailed_pass (outOfRange_eq_false.2 fun _ => hsa),
    firstFailed_pass (outOfRange_eq_false.2 fun _ => hda), firstFailed_fail (partialOverlap_eq_true (by decide) hne hlt hgt)]

end Lengths

theorem exec_blockInstr_fails (d : Dir) {e : ErrCode} {a : ErrArg} {info : Word} (h : checkBlock s = some ⟨e, a, info⟩) :
    exec (blockInstr d) s = .next (endedWith e a info s) := by
  rw [exec_blockInstr, blockFor, validated_fails h]
  rfl

end Checks

/-- Settles O21: each report is that of the first check that fails. -/
theorem blockChecksInOrder : Obligations.BlockChecksInOrder := by
  unfold Obligations.BlockChecksInOrder
  exact fun d s => ⟨fun hk => exec_blockInstr_fails d (checkBlock_noKey hk),
    fun hk hs => exec_blockInstr_fails d (checkBlock_srcLen hk hs),
    fun hk hs hd => exec_blockInstr_fails d (checkBlock_dstLen hk hs hd),
    fun hk hs hd hsa => exec_blockInstr_fails d (checkBlock_srcAddr hk hs hd hsa),
    fun hk hs hd hsa hda => exec_blockInstr_fails d (checkBlock_dstAddr hk hs hd hsa hda),
    fun hk hs hd hsa hda hne hlt hgt => exec_blockInstr_fails d (checkBlock_overlap hk hs hd hsa hda hne hlt hgt)⟩

/-! ### The keystream -/

theorem outByte_enc_zero (d : Nat) : (outByte .enc 0 d).toNat = d % 256 := by simp [outByte]

/-- Decryption with the same digit undoes encryption (R154). -/
theorem outByte_dec_enc (b : Byte) (d : Nat) : outByte .dec (outByte .enc b d) d = b := by
  rw [← combine_eq_outByte, ← combine_eq_outByte]
  exact BitVec.add_sub_cancel b _

/-- Settles O17, from the whole next state of a single-block command. -/
theorem blockCommandsApplyKeystream : Obligations.BlockCommandsApplyKeystream := by
  unfold Obligations.BlockCommandsApplyKeystream
  intro d s h
  obtain ⟨m, ⟨-, hbytes, hframe⟩, hexec⟩ := exec_block_ready d h
  refine ⟨m, hexec, hbytes, hframe, ?_⟩
  rintro rfl hzero k hk
  rw [hbytes k hk, hzero k hk, outByte_enc_zero]

/-! ### The laws -/

section Laws

variable {s t u : State} {d : Dir}

/-- The digit `D_k` of a single-block command: the one after `k` cycles from KeySchedule(KEY) (R156). -/
abbrev blockDigit (s : State) (k : Nat) : Nat := digitAt s (keySchedule s.setup s.key) k

/-- What a completed single-block command wrote, and the NX it ended with. -/
theorem block_bytes (h : BlockReady s) (ht : exec (blockInstr d) s = .next t) :
    (∀ k, k < 16 → t.mem.read (dst s + k) = outByte d (s.mem.read (src s + k)) (blockDigit s k)) ∧
    t.nx = (cycles s.setup (genOf (keySchedule s.setup s.key) s) 16).nx := by
  obtain ⟨m, ⟨-, hbytes, -⟩, hexec⟩ := exec_block_ready d h
  cases hexec.symm.trans ht
  exact ⟨hbytes, rfl⟩

/-- Where a command's cycles leave NX clear, a command under the same key has the same digits, whatever else differs (R155). -/
theorem blockDigit_congr (hnx : (cycles s.setup (genOf (keySchedule s.setup s.key) s) 16).nx = false) (hsetup : u.setup = s.setup)
    (hkey : u.key = s.key) {k : Nat} (hk : k < 16) : blockDigit u k = blockDigit s k := by
  rw [blockDigit, digitAt, hsetup, hkey]
  exact digit_cycles_congr (g' := genOf _ u) hnx rfl hk

end Laws

/-- Settles O28: both commands see the same digits, and the decryption undoes each byte. -/
theorem blockDecryptionInvertsEncryption : Obligations.BlockDecryptionInvertsEncryption := by
  unfold Obligations.BlockDecryptionInvertsEncryption
  intro s t u v hs ht htnx hu hsetup hkey hsrc hv _ k hk
  obtain ⟨henc, hnx⟩ := block_bytes (d := .enc) hs ht
  obtain ⟨hdec, -⟩ := block_bytes (d := .dec) hu hv
  calc v.mem.read (dst u + k)
    _ = outByte .dec (u.mem.read (src u + k)) (blockDigit u k) := hdec k hk
    _ = outByte .dec (outByte .enc (s.mem.read (src s + k)) (blockDigit s k)) (blockDigit s k) := by
      rw [hsrc k hk, henc k hk, blockDigit_congr (hnx.symm.trans htnx) hsetup hkey hk]
    _ = s.mem.read (src s + k) := outByte_dec_enc _ _

/-- Settles O29: both commands combine the same bytes with the same digits. -/
theorem blockCommandIsStateless : Obligations.BlockCommandIsStateless := by
  unfold Obligations.BlockCommandIsStateless
  intro d s t u v hs hu hsetup hkey hsrc ht htnx hv _ k hk
  obtain ⟨hbytes, hnx⟩ := block_bytes hs ht
  obtain ⟨hbytes', -⟩ := block_bytes hu hv
  rw [hbytes' k hk, hbytes k hk, hsrc k hk, blockDigit_congr (hnx.symm.trans htnx) hsetup hkey hk]

/-! ### The first chained block -/

/-- The bytes moved and the frame fix every byte of memory. -/
theorem moved_read_unique {d : Dir} {s : State} {c : Chaotic} {n : Nat} {m m' : Memory} (h : Moved d s c n m)
    (h' : Moved d s c n m') (a : Nat) : m'.read a = m.read a := by
  obtain ⟨-, hbytes, hframe⟩ := h
  obtain ⟨-, hbytes', hframe'⟩ := h'
  cases ha : inBuffer a (dst s) n with
  | false => rw [hframe a ha, hframe' a ha]
  | true =>
    simp only [inBuffer, decide_eq_true_eq] at ha
    obtain ⟨k, rfl⟩ := Nat.exists_eq_add_of_le ha.1
    have hk : k < n := by omega
    rw [hbytes k hk, hbytes' k hk]

/-- The state that CHAIN_INIT_ENC with a key leaves (R170). -/
abbrev chainStarted (s : State) : State :=
  complete { s with cs := keySchedule s.setup s.key, chainDir := .enc, cycles := 0, chainValid := true }

/-- CHAIN_CRYPT of the block, accepted after CHAIN_INIT_ENC. -/
abbrev firstBlock (s : State) : State :=
  accept (encode .chainCrypt) { chainStarted s with ops := { s.latch with srcLen := 16 } }

theorem exec_chainInitEnc_key {s : State} (h : s.keyValid = true) : exec .chainInitEnc s = .next (chainStarted s) := by
  rw [exec_chainInitEnc]
  obtain ⟨hno, -⟩ | ⟨-, e⟩ := chainInit_cases .enc s
  · cases h.symm.trans hno
  · exact e

theorem firstBlock_ready {s : State} (h : BlockReady s) : ChainReady (firstBlock s) 16 := by
  obtain ⟨-, hwf, ⟨-, -, hlen, hs, hd, hov, hsides, hsided⟩, hA⟩ := h
  exact ⟨⟨rfl, rfl, rfl⟩, hwf, ⟨rfl, rfl, rfl, hlen, fun _ => hs, fun _ => hd, hov, hsides, hsided⟩, hA⟩

/-- Settles O30: both move the same source bytes, with the digits from KeySchedule(KEY). -/
theorem blockEqualsFirstChainedBlock : Obligations.BlockEqualsFirstChainedBlock := by
  unfold Obligations.BlockEqualsFirstChainedBlock
  intro s h
  obtain ⟨m, hm, hblock⟩ := exec_block_ready .enc h
  obtain ⟨m', hm', hchain⟩ := exec_chain_ready (firstBlock_ready h)
  have hmoved : Moved .enc s (keySchedule s.setup s.key) 16 m' := hm'
  obtain ⟨-, -, ⟨hkey, -⟩, -⟩ := h
  exact ⟨_, _, _, hblock, exec_chainInitEnc_key hkey, hchain, moved_read_unique hm hmoved⟩

end Sys2Proof.Proofs
end

section
/-! PROOFS. CHAIN_INIT and CHAIN_CRYPT (spec 43_chaining_mode.md R170, R171, R175, R176, R179, R180; 60_exceptions.md R206): the checks,
the keystream, the empty message, and the round trip. -/

namespace Sys2Proof.Proofs

open Sys2Proof.Machine Sys2Proof.Safety

/-! ### CHAIN_INIT -/

theorem exec_initInstr (d : Dir) (s : State) : exec (initInstr d) s = chainInit d s := by
  cases d <;> rfl

/-- Settles O14: with a key the chain is constructed, without one NO_KEY is the report. -/
theorem chainInitDerivesFromKey : Obligations.ChainInitDerivesFromKey := by
  unfold Obligations.ChainInitDerivesFromKey
  intro d s
  rw [exec_initInstr]
  obtain ⟨hno, e⟩ | ⟨hkey, e⟩ := chainInit_cases d s
  · exact ⟨fun hkey => (nomatch hno.symm.trans hkey), fun _ => e⟩
  · exact ⟨fun _ => e, fun hno => (nomatch hno.symm.trans hkey)⟩

/-! ### The checks of CHAIN_CRYPT -/

section Checks

variable {s : State}

theorem checkChainCrypt_noChain (hv : s.chainValid = false) : checkChainCrypt s = some ⟨.noChain, .none, 0⟩ :=
  firstFailed_fail (by rw [hv, Bool.not_false])

section Live

variable (hv : s.chainValid = true)
include hv

/-- With a live chain, the checks go on with the lengths. -/
theorem checkChainCrypt_of_live :
    checkChainCrypt s = firstFailed
      [ (decide (s.latch.srcLen.toNat % 16 ≠ 0), ⟨.unalignedInput, .source, s.latch.srcLen⟩),
        (decide (s.latch.dstLen.toNat < s.latch.srcLen.toNat), ⟨.bufferTooShort, .destination, s.latch.dstLen⟩),
        (outOfRange s.latch.srcAddr s.latch.srcLen.toNat, ⟨.addressRange, .source, s.latch.srcAddr⟩),
        (outOfRange s.latch.dstAddr s.latch.srcLen.toNat, ⟨.addressRange, .destination, s.latch.dstAddr⟩),
        (partialOverlap (src s) (dst s) s.latch.srcLen.toNat, ⟨.bufferOverlap, .destination, s.latch.dstAddr⟩) ] :=
  firstFailed_pass (by rw [hv, Bool.not_true])

theorem checkChainCrypt_unaligned (hm : s.latch.srcLen.toNat % 16 ≠ 0) :
    checkChainCrypt s = some ⟨.unalignedInput, .source, s.latch.srcLen⟩ := by
  rw [checkChainCrypt_of_live hv, firstFailed_fail (decide_eq_true hm)]

variable (hm : s.latch.srcLen.toNat % 16 = 0)
include hm

theorem checkChainCrypt_dstLen (hd : s.latch.dstLen.toNat < s.latch.srcLen.toNat) :
    checkChainCrypt s = some ⟨.bufferTooShort, .destination, s.latch.dstLen⟩ := by
  rw [checkChainCrypt_of_live hv, firstFailed_pass (decide_eq_false (not_not.2 hm)), firstFailed_fail (decide_eq_true hd)]

variable (hd : s.latch.srcLen.toNat ≤ s.latch.dstLen.toNat)
include hd

/-- With a live chain and both lengths, the checks go on with the addresses. -/
theorem checkChainCrypt_of_lengths :
    checkChainCrypt s = firstFailed
      [ (outOfRange s.latch.srcAddr s.latch.srcLen.toNat, ⟨.addressRange, .source, s.latch.srcAddr⟩),
        (outOfRange s.latch.dstAddr s.latch.srcLen.toNat, ⟨.addressRange, .destination, s.latch.dstAddr⟩),
        (partialOverlap (src s) (dst s) s.latch.srcLen.toNat, ⟨.bufferOverlap, .destination, s.latch.dstAddr⟩) ] := by
  rw [checkChainCrypt_of_live hv, firstFailed_pass (decide_eq_false (not_not.2 hm)), firstFailed_pass (decide_eq_false hd.not_gt)]

variable (hn : 0 < s.latch.srcLen.toNat)
include hn

theorem checkChainCrypt_srcAddr (hsa : 2 ^ 32 < src s + s.latch.srcLen.toNat) :
    checkChainCrypt s = some ⟨.addressRange, .source, s.latch.srcAddr⟩ := by
  rw [checkChainCrypt_of_lengths hv hm hd, firstFailed_fail (outOfRange_eq_true hn hsa)]

variable (hsa : src s + s.latch.srcLen.toNat ≤ 2 ^ 32)
include hsa

theorem checkChainCrypt_dstAddr (hda : 2 ^ 32 < dst s + s.latch.srcLen.toNat) :
    checkChainCrypt s = some ⟨.addressRange, .destination, s.latch.dstAddr⟩ := by
  rw [checkChainCrypt_of_lengths hv hm hd, firstFailed_pass (outOfRange_eq_false.2 fun _ => hsa),
    firstFailed_fail (outOfRange_eq_true hn hda)]

theorem checkChainCrypt_overlap (hda : dst s + s.latch.srcLen.toNat ≤ 2 ^ 32) (hne : src s ≠ dst s)
    (hlt : src s < dst s + s.latch.srcLen.toNat) (hgt : dst s < src s + s.latch.srcLen.toNat) :
    checkChainCrypt s = some ⟨.bufferOverlap, .destination, s.latch.dstAddr⟩ := by
  rw [checkChainCrypt_of_lengths hv hm hd, firstFailed_pass (outOfRange_eq_false.2 fun _ => hsa),
    firstFailed_pass (outOfRange_eq_false.2 fun _ => hda), firstFailed_fail (partialOverlap_eq_true hn hne hlt hgt)]

end Live

theorem exec_chainCrypt_fails {e : ErrCode} {a : ErrArg} {info : Word} (h : checkChainCrypt s = some ⟨e, a, info⟩) :
    exec .chainCrypt s = .next (endedWith e a info s) := by
  rw [exec_chainCrypt, chainCryptFor, validated_fails h]
  rfl

end Checks

/-- Settles O22: each report is that of the first check that fails. -/
theorem chainCryptChecksInOrder : Obligations.ChainCryptChecksInOrder := by
  unfold Obligations.ChainCryptChecksInOrder
  rintro s _ rfl
  exact ⟨fun hv => exec_chainCrypt_fails (checkChainCrypt_noChain hv),
    fun hv hm => exec_chainCrypt_fails (checkChainCrypt_unaligned hv hm),
    fun hv hm hd => exec_chainCrypt_fails (checkChainCrypt_dstLen hv hm hd),
    fun hv hm hd hn hsa => exec_chainCrypt_fails (checkChainCrypt_srcAddr hv hm hd hn hsa),
    fun hv hm hd hn hsa hda => exec_chainCrypt_fails (checkChainCrypt_dstAddr hv hm hd hn hsa hda),
    fun hv hm hd hn hsa hda hne hlt hgt => exec_chainCrypt_fails (checkChainCrypt_overlap hv hm hd hn hsa hda hne hlt hgt)⟩

/-! ### The keystream -/

/-- Settles O18, from the whole next state of CHAIN_CRYPT. -/
theorem chainCryptAppliesKeystream : Obligations.ChainCryptAppliesKeystream := by
  unfold Obligations.ChainCryptAppliesKeystream
  intro s n h
  obtain ⟨m, ⟨-, hbytes, hframe⟩, hexec⟩ := exec_chain_ready h
  obtain ⟨-, -, ⟨-, hlen, -⟩, -⟩ := h
  have hidx : BitVec.ofNat 32 n = s.latch.srcLen := by rw [← hlen, BitVec.ofNat_toNat, BitVec.setWidth_eq]
  rw [hidx] at hexec
  exact ⟨m, hexec, hbytes, hframe⟩

/-- What a completed CHAIN_CRYPT of `n` bytes wrote, and the NX and the CS it ended with. -/
theorem chain_bytes {s t : State} {n : Nat} (h : ChainReady s n) (ht : exec .chainCrypt s = .next t) :
    (∀ k, k < n → t.mem.read (dst s + k) = outByte s.chainDir (s.mem.read (src s + k)) (digitAt s s.cs k)) ∧
    t.nx = (cycles s.setup (genOf s.cs s) n).nx ∧ t.cs = (cycles s.setup (genOf s.cs s) n).chaos := by
  obtain ⟨m, ⟨-, hbytes, -⟩, hexec⟩ := exec_chain_ready h
  cases hexec.symm.trans ht
  exact ⟨hbytes, rfl, rfl⟩

/-- Settles O33: from the same CS both commands see the same digits, and the decryption undoes each byte. -/
theorem chainDecryptionInvertsEncryption : Obligations.ChainDecryptionInvertsEncryption := by
  unfold Obligations.ChainDecryptionInvertsEncryption
  intro n s t u v hs hsdir ht htnx hu hudir hsetup hcs hsrc hv _
  obtain ⟨henc, hnx, htcs⟩ := chain_bytes hs ht
  obtain ⟨hdec, -, hvcs⟩ := chain_bytes hu hv
  rw [hsdir] at henc
  rw [hudir] at hdec
  have hclear : (cycles s.setup (genOf s.cs s) n).nx = false := hnx.symm.trans htnx
  have hdigit (k : Nat) (hk : k < n) : digitAt u u.cs k = digitAt s s.cs k := by
    rw [digitAt, hsetup]
    exact digit_cycles_congr hclear hcs hk
  refine ⟨fun k hk => ?_, ?_⟩
  · calc v.mem.read (dst u + k)
      _ = outByte .dec (u.mem.read (src u + k)) (digitAt u u.cs k) := hdec k hk
      _ = outByte .dec (outByte .enc (s.mem.read (src s + k)) (digitAt s s.cs k)) (digitAt s s.cs k) := by
        rw [hsrc k hk, henc k hk, hdigit k hk]
      _ = s.mem.read (src s + k) := outByte_dec_enc _ _
  · rw [hvcs, htcs, hsetup]
    exact cycles_chaos_congr hclear hcs

/-! ### Parts of a buffer and the empty message -/

/-- A part of a buffer without side effects has none; a part of no bytes may stand anywhere (R69; log 15). -/
theorem hasSideEffects_part {p : Platform} {a n b m : Nat} (h : hasSideEffects p a n = false)
    (hpart : 0 < m → a ≤ b ∧ b + m ≤ a + n) : hasSideEffects p b m = false := by
  have hmeets (r : Range) (hr : rangeMeets r a n = false) : rangeMeets r b m = false := by
    simp only [rangeMeets, decide_eq_false_iff_not] at hr ⊢
    omega
  simp only [hasSideEffects, Bool.or_eq_false_iff, List.any_eq_false, Bool.not_eq_true] at h ⊢
  obtain ⟨hwindow, hdevices⟩ := h
  exact ⟨hmeets _ hwindow, fun r hr => hmeets r (hdevices r hr)⟩

theorem hasSideEffects_empty (p : Platform) (a : Nat) : hasSideEffects p a 0 = false := by
  simp [hasSideEffects, rangeMeets]

/-- No check and no address stands in the way of an empty message (R176). -/
theorem chainPasses_empty {s : State} (hv : s.chainValid = true) (hlen : s.latch.srcLen = 0) : ChainPasses s 0 :=
  ⟨hv, by rw [hlen]; rfl, rfl, Nat.zero_le _, nofun, nofun, partialOverlap_eq_false.2 nofun, hasSideEffects_empty _ _,
    hasSideEffects_empty _ _⟩

/-- Settles O19: the command passes, and has no access to make. -/
theorem emptyMessageSucceeds : Obligations.EmptyMessageSucceeds := by
  unfold Obligations.EmptyMessageSucceeds
  intro s hv hlen
  have hleft : accessesLeft 0 s = 0 := by rw [accessesLeft, Nat.zero_sub, Nat.mul_zero, Nat.zero_sub]
  rw [exec_chainCrypt_passes (chainPasses_empty hv hlen), hleft]
  exact workFor_whole_going (runAccesses_zero _ _)

end Sys2Proof.Proofs
end

section
/-! PROOFS. A message in parts (spec 43_chaining_mode.md R178): a CHAIN_CRYPT over consecutive bytes of a message moves them as the
command over the whole message does. -/

namespace Sys2Proof.Proofs

open Sys2Proof.Machine Sys2Proof.Safety

/-- The data command of `u` covers the `m` bytes from byte `k` on of the message of `s`. A part of no bytes has no address: behind the
last byte of the address space there is none (R60). -/
structure IsPart (s u : State) (k m : Nat) : Prop where
  setup : u.setup = s.setup
  length : u.latch.srcLen.toNat = m
  room : m ≤ u.latch.dstLen.toNat
  srcAt : 0 < m → src u = src s + k
  dstAt : 0 < m → dst u = dst s + k

section Parts

variable {s u : State} {n k m : Nat}

/-- Buffers that do not overlap partially have no parts that do (R66). -/
theorem partialOverlap_part {x y : Nat} (h : partialOverlap x y n = false) (hkm : k + m ≤ n) :
    partialOverlap (x + k) (y + k) m = false := by
  rw [partialOverlap_eq_false] at h ⊢
  omega

/-- A part in whole blocks of a message that is ready is ready. -/
theorem IsPart.ready (part : IsPart s u k m) (h : ChainReady s n) (hkm : k + m ≤ n) (hm : m % 16 = 0) (hfresh : Fresh u)
    (hwf : u.mem.wf = true) (hlive : u.chainValid = true) : ChainReady u m := by
  obtain ⟨-, -, ⟨-, -, -, -, hs, hd, hov, hsides, hsided⟩, hreads, hwrites⟩ := h
  obtain ⟨hsetup, hlen, hroom, hsrc, hdst⟩ := part
  have hoverlap : partialOverlap (src u) (dst u) m = false := by
    rcases Nat.eq_zero_or_pos m with rfl | hpos
    · exact partialOverlap_eq_false.2 nofun
    · rw [hsrc hpos, hdst hpos]
      exact partialOverlap_part hov hkm
  refine ⟨hfresh, hwf, ⟨hlive, hlen, hm, hroom, ?_, ?_, hoverlap, ?_, ?_⟩, ?_, ?_⟩
  · omega
  · omega
  · exact hsetup ▸ hasSideEffects_part hsides (by omega)
  · exact hsetup ▸ hasSideEffects_part hsided (by omega)
  · intro j hj
    rw [hsetup, hsrc (by omega), Nat.add_assoc]
    exact hreads _ (by omega)
  · intro j hj
    rw [hsetup, hdst (by omega), Nat.add_assoc]
    exact hwrites _ (by omega)

variable {d : Dir} {c c' : Chaotic} {mem' : Memory}

/-- The digits of a part that starts from the Chaotic State that `k` bytes leave (R179). -/
theorem IsPart.digitAt_eq (part : IsPart s u k m) (hgen : genOf c' u = cycles s.setup (genOf c s) k) (j : Nat) :
    digitAt u c' j = digitAt s c (k + j) := by
  rw [digitAt, digitAt, part.setup, hgen, cycles_add]

theorem inBuffer_eq_false {x a n : Nat} : inBuffer x a n = false ↔ (a ≤ x → a + n ≤ x) := by simp [inBuffer]

/-- The first `k` bytes moved and then the next `m` are the first `k + m` bytes moved. -/
theorem IsPart.moved_add (part : IsPart s u k m) (hov : partialOverlap (src s) (dst s) n = false) (hkm : k + m ≤ n)
    (hgen : genOf c' u = cycles s.setup (genOf c s) k) (hfirst : Moved d s c k u.mem) (hnext : Moved d u c' m mem') :
    Moved d s c (k + m) mem' := by
  obtain ⟨-, hbytes, hframe⟩ := hfirst
  obtain ⟨hwf, hbytes', hframe'⟩ := hnext
  have hdst := part.dstAt
  refine ⟨hwf, fun i hi => ?_, fun a ha => ?_⟩
  · rcases Nat.lt_or_ge i k with hik | hik
    · rw [hframe' _ (inBuffer_eq_false.2 (by omega)), hbytes i hik]
    · obtain ⟨j, rfl⟩ := Nat.exists_eq_add_of_le hik
      have hj : j < m := by omega
      have hunwritten : inBuffer (src s + (k + j)) (dst s) k = false := by
        have := inBuffer_eq_false.1 (source_unwritten hov (show k + j < n by omega))
        exact inBuffer_eq_false.2 (by omega)
      have hbyte := hbytes' j hj
      rw [part.dstAt (by omega), part.srcAt (by omega), part.digitAt_eq hgen, Nat.add_assoc, Nat.add_assoc,
        hframe _ hunwritten] at hbyte
      exact hbyte
  · rw [inBuffer_eq_false] at ha
    rw [hframe' a (inBuffer_eq_false.2 (by omega)), hframe a (inBuffer_eq_false.2 (by omega))]

end Parts

/-! ### Two commands -/

/-- The command of the first `n1` bytes. -/
abbrev firstPart (s : State) (n1 : Nat) : State := { s with latch := { s.latch with srcLen := BitVec.ofNat 32 n1 } }

/-- The command of the next `n2` bytes, accepted in `t`. -/
abbrev secondPart (s t : State) (n1 n2 : Nat) : State :=
  accept (encode .chainCrypt)
    { t with
      ops :=
        { s.latch with
          srcAddr := s.latch.srcAddr + BitVec.ofNat 32 n1, srcLen := BitVec.ofNat 32 n2,
          dstAddr := s.latch.dstAddr + BitVec.ofNat 32 n1, dstLen := BitVec.ofNat 32 n2 } }

/-- The state that a CHAIN_CRYPT leaves which moved `n` bytes and left the memory `m` (R175). -/
abbrev chainMoved (s : State) (n : Nat) (m : Memory) : State :=
  complete
    { s with
      mem := m, idx := BitVec.ofNat 32 n, nx := (cycles s.setup (genOf s.cs s) n).nx,
      draws := (cycles s.setup (genOf s.cs s) n).draws, cs := (cycles s.setup (genOf s.cs s) n).chaos,
      cycles := s.cycles + BitVec.ofNat 64 n }

theorem toNat_add_ofNat {a : Word} {k : Nat} (h : a.toNat + k < 2 ^ 32) : (a + BitVec.ofNat 32 k).toNat = a.toNat + k := by
  rw [BitVec.toNat_add, BitVec.toNat_ofNat]
  omega

section Split

variable {s t : State} {n1 n2 : Nat}

theorem chainReady_lt {n : Nat} (h : ChainReady s n) : n < 2 ^ 32 := by
  obtain ⟨-, -, ⟨-, hlen, -⟩, -⟩ := h
  exact hlen ▸ s.latch.srcLen.isLt

theorem firstPart_isPart (h : ChainReady s (n1 + n2)) : IsPart s (firstPart s n1) 0 n1 := by
  have hlt := chainReady_lt h
  obtain ⟨-, -, ⟨-, -, -, hroom, -⟩, -⟩ := h
  have hlen : (BitVec.ofNat 32 n1).toNat = n1 := by rw [BitVec.toNat_ofNat, Nat.mod_eq_of_lt (by omega)]
  exact ⟨rfl, hlen, (Nat.le_add_right n1 n2).trans hroom, fun _ => rfl, fun _ => rfl⟩

theorem secondPart_isPart (h : ChainReady s (n1 + n2)) (hsetup : t.setup = s.setup) : IsPart s (secondPart s t n1 n2) n1 n2 := by
  have hlt := chainReady_lt h
  have hlen : (BitVec.ofNat 32 n2).toNat = n2 := by rw [BitVec.toNat_ofNat, Nat.mod_eq_of_lt (by omega)]
  obtain ⟨-, -, ⟨-, -, -, -, hs, hd, -⟩, -⟩ := h
  simp only [src, dst] at hs hd
  exact ⟨hsetup, hlen, hlen.ge, fun _ => toNat_add_ofNat (by omega), fun _ => toNat_add_ofNat (by omega)⟩

end Split

/-- Settles O32: the second part goes on from the memory and the CS that the first one leaves. -/
theorem splitMessageIsTheWholeMessage : Obligations.SplitMessageIsTheWholeMessage := by
  unfold Obligations.SplitMessageIsTheWholeMessage
  intro s n1 n2 h h1 h2
  have ⟨hfresh, hwf, ⟨hlive, _, _, _, _, _, hov, _, _⟩, _⟩ := h
  obtain ⟨m, hm, hwhole⟩ := exec_chain_ready h
  obtain ⟨m1, hm1, hfirst⟩ := exec_chain_ready ((firstPart_isPart h).ready h (by omega) h1 hfresh hwf hlive)
  have hmoved1 : Moved s.chainDir s s.cs n1 m1 := hm1
  obtain ⟨hwf1, -, -⟩ := hm1
  have part : IsPart s (secondPart s (chainMoved (firstPart s n1) n1 m1) n1 n2) n1 n2 := secondPart_isPart h rfl
  obtain ⟨m2, hm2, hsecond⟩ := exec_chain_ready (part.ready h le_rfl h2 ⟨rfl, rfl, rfl⟩ hwf1 hlive)
  have hmoved2 : Moved s.chainDir s s.cs (n1 + n2) m2 := part.moved_add hov le_rfl rfl hmoved1 hm2
  have hcycles := cycles_add s.setup (genOf s.cs s) n1 n2
  have hcount : s.cycles + BitVec.ofNat 64 n1 + BitVec.ofNat 64 n2 = s.cycles + BitVec.ofNat 64 (n1 + n2) := by
    rw [BitVec.add_assoc, BitVec.ofNat_add]
  exact ⟨_, _, _, hwhole, hfirst, hsecond, moved_read_unique hm hmoved2, congrArg Gen.chaos hcycles.symm, hcount,
    congrArg Gen.nx hcycles.symm, congrArg Gen.draws hcycles.symm⟩

end Sys2Proof.Proofs
end

section
/-! PROOFS. The lifetime of a chain (spec 43_chaining_mode.md R172; 10_state.md R26): what each command, event and step leaves of it. -/

namespace Sys2Proof.Proofs

open Sys2Proof.Machine Sys2Proof.Safety

/-- The chain: whether it is live, its direction, CS and CYCLES (R25, R26). -/
def chainOf (s : State) : Bool × Dir × Chaotic × BitVec 64 := (s.chainValid, s.chainDir, s.cs, s.cycles)

/-- `u` has the chain of `s`. -/
abbrev HasChain (s u : State) : Prop := chainOf u = chainOf s

theorem chainOf_eq_iff {s u : State} :
    HasChain s u ↔ u.chainValid = s.chainValid ∧ u.chainDir = s.chainDir ∧ u.cs = s.cs ∧ u.cycles = s.cycles := by
  simp [HasChain, chainOf]

/-- What running the command `i` may do to a live chain: three commands end it, three move or replace it (R172). -/
structure ChainEffect (i : Instr) (s t : State) : Prop where
  ends : t.chainValid = false →
    i = .clear ∨ (i = .keyLoad ∧ t.keyValid = true ∧ t.err = s.err) ∨ (i = .chainCrypt ∧ t.err = .busError)
  changes : t.chainValid = true → ¬HasChain s t → i = .chainCrypt ∨ i = .chainInitEnc ∨ i = .chainInitDec

section Accesses

variable {s t : State} {P : State → Prop}

/-- What a data access leaves: the byte it read, the byte it wrote, or the bus error it met. -/
theorem dataAccess_leaves {dir : Dir} {x : Chaotic} {put : Chaotic → State → State} {lose : State → State}
    (reads : ∀ b, P { s with held := some b })
    (writes : ∀ y nx draws m, P (put y { s with nx := nx, draws := draws, mem := m, held := none, idx := s.idx + 1 }))
    (errs : ∀ a info nx draws, P (raiseError ⟨.busError, a, info⟩ (lose { s with nx := nx, draws := draws }))) :
    Leaves P (dataAccess dir x put lose s) := by
  cases hh : s.held with
  | none =>
    rw [dataAccess_read hh]
    obtain ⟨-, e⟩ | ⟨-, e⟩ | ⟨b, -, e⟩ := readAccess_cases lose s <;> rw [e]
    · exact errs .source _ s.nx s.draws
    · trivial
    · exact reads b
  | some b =>
    rw [dataAccess_write hh]
    obtain ⟨-, e⟩ | ⟨-, e⟩ | ⟨m, -, e⟩ := writeAccess_cases dir x put lose b s <;> rw [e]
    · exact errs .destination _ _ _
    · trivial
    · exact writes _ _ _ m

/-- A turn of work ends where accesses went on to, where one of them ended the command, or at its completion. -/
theorem workFor_inversion {access : State → Work} {commit : State → State} {budget remaining : Nat}
    (keep : ∀ u v, P u → access u = .going v → P v) (hs : P s) (h : workFor access commit budget remaining s = .next t) :
    ∃ u, P u ∧ (t = u ∨ access u = .ended t ∨ t = complete (commit u)) := by
  have keepAt (_ : Nat) := keep
  obtain ⟨u, hr, ⟨-, e⟩ | ⟨-, e⟩⟩ | ⟨u, hr, e⟩ | ⟨f, -, e⟩ := workFor_cases access commit budget remaining s <;>
    rw [e] at h <;> cases h
  · exact ⟨u, runAccesses_going_induction (P := fun _ => P) keepAt _ s u hs hr, .inr (.inr rfl)⟩
  · exact ⟨t, runAccesses_going_induction (P := fun _ => P) keepAt _ s t hs hr, .inl rfl⟩
  · obtain ⟨-, u, hu, hend⟩ := runAccesses_ended_induction (P := fun _ => P) keepAt _ s t hs hr
    exact ⟨u, hu, .inr (.inl hend)⟩

end Accesses

/-! ### The commands -/

section Commands

variable {s t : State}

theorem chainEffect_of_hasChain {i : Instr} (hv : s.chainValid = true) (h : HasChain s t) : ChainEffect i s t where
  ends ht := by
    obtain ⟨hvalid, -⟩ := chainOf_eq_iff.1 h
    exact nomatch ht.symm.trans (hvalid.trans hv)
  changes _ hne := absurd h hne

theorem GathersKey.hasChain {u : State} (hu : GathersKey s u) : HasChain s u := by
  rw [HasChain, hu]
  rfl

theorem GathersKey.err_eq {u : State} (hu : GathersKey s u) : u.err = s.err := by rw [hu]

/-- A turn of KEY_LOAD has gathered bytes, and may then have ended with an error or with the new key (R110, R111). -/
theorem keyLoadFor_inversion {n : Nat} (h : keyLoadFor n s = .next t) :
    ∃ u, GathersKey s u ∧ (t = u ∨ (∃ r, t = raiseError r u) ∨ t = complete (commitKey u)) := by
  rw [keyLoadFor] at h
  obtain ⟨r, -, e⟩ | ⟨-, -, e⟩ | ⟨-, -, e⟩ := validated_cases (checkKeyLoad s) [(s.latch.keyAddr.toNat, 18)] s
    (workFor keyByte commitKey n (18 - s.idx.toNat) s) <;> rw [e] at h
  · cases h
    exact ⟨s, gathersKey_refl s, .inr (.inl ⟨r, rfl⟩)⟩
  · cases h
  · obtain ⟨u, hu, rfl | hend | rfl⟩ := workFor_inversion (fun _ _ => keyByte_keeps_gathersKey) (gathersKey_refl s) h
    · exact ⟨t, hu, .inl rfl⟩
    · obtain ⟨-, e⟩ | ⟨-, e⟩ | ⟨b, -, e⟩ := keyByte_cases u <;> rw [e] at hend <;> cases hend
      exact ⟨u, hu, .inr (.inl ⟨_, rfl⟩)⟩
    · exact ⟨u, hu, .inr (.inr rfl)⟩

/-- KEY_LOAD ends the chain only when it stores a key (R110, R111). -/
theorem keyLoadFor_chainEffect {n : Nat} (hv : s.chainValid = true) (h : keyLoadFor n s = .next t) : ChainEffect .keyLoad s t := by
  obtain ⟨u, hu, rfl | ⟨r, rfl⟩ | rfl⟩ := keyLoadFor_inversion h
  · exact chainEffect_of_hasChain hv hu.hasChain
  · exact chainEffect_of_hasChain hv hu.hasChain
  · exact ⟨fun _ => .inr (.inl ⟨rfl, rfl, hu.err_eq⟩), nofun⟩

/-- A single-block command leaves the chain alone (R152). -/
theorem blockFor_hasChain (d : Dir) (n : Nat) (s : State) : Reaches (HasChain s) (blockFor d n s) :=
  validated_reaches (fun _ => rfl) (workFor_reaches (commit := id) (s := deriveTs s)
    (fun _ hu => dataAccess_leaves (fun _ => hu) (fun _ _ _ _ => hu) (fun _ _ _ _ => hu)) (fun _ hu => hu) n _ rfl)

/-- The chain is live, or a bus error has ended it. -/
def LiveOrBusError (s : State) : Prop := s.chainValid = true ∨ s.err = .busError

theorem chainAccess_leaves (hs : LiveOrBusError s) : Leaves LiveOrBusError (chainAccess s) :=
  dataAccess_leaves (fun _ => hs) (fun _ _ _ _ => hs) (fun _ _ _ _ => .inr rfl)

/-- CHAIN_CRYPT ends the chain only by a bus error (R177, R208). -/
theorem chainCryptFor_liveOrBusError (n : Nat) (hv : s.chainValid = true) : Reaches LiveOrBusError (chainCryptFor n s) :=
  validated_reaches (fun _ => .inl hv)
    (workFor_reaches (commit := id) (fun _ => chainAccess_leaves) (fun _ hu => hu) n _ (.inl hv))

theorem chainCryptFor_chainEffect {n : Nat} (hv : s.chainValid = true) (h : chainCryptFor n s = .next t) :
    ChainEffect .chainCrypt s t where
  ends ht := .inr (.inr ⟨rfl, (chainCryptFor_liveOrBusError n hv t h).resolve_left (by simp [ht])⟩)
  changes _ _ := .inl rfl

/-- CHAIN_INIT leaves a live chain (R170, R171). -/
theorem chainInit_live (d : Dir) (hv : s.chainValid = true) : Reaches (fun t => t.chainValid = true) (chainInit d s) := by
  obtain ⟨-, e⟩ | ⟨-, e⟩ := chainInit_cases d s <;> rw [e, reaches_next]
  · exact hv
  · rfl

theorem initInstr_chainEffect {d : Dir} (hv : s.chainValid = true) (h : chainInit d s = .next t) :
    ChainEffect (initInstr d) s t where
  ends ht := nomatch ht.symm.trans (chainInit_live d hv t h)
  changes _ _ := by cases d <;> simp [initInstr]

theorem exec_chainEffect {i : Instr} (hv : s.chainValid = true) (h : exec i s = .next t) : ChainEffect i s t := by
  cases i with
  | keyLoad => exact keyLoadFor_chainEffect hv h
  | blockEnc => exact chainEffect_of_hasChain hv (blockFor_hasChain .enc _ s t h)
  | blockDec => exact chainEffect_of_hasChain hv (blockFor_hasChain .dec _ s t h)
  | chainInitEnc => exact initInstr_chainEffect (d := .enc) hv h
  | chainInitDec => exact initInstr_chainEffect (d := .dec) hv h
  | chainCrypt => exact chainCryptFor_chainEffect hv h
  | clear => cases h; exact ⟨fun _ => .inl rfl, nofun⟩
  | nop | illegalOpc08 | illegalOpc10 | illegalOpc20 | illegalOpc40 | illegalOpc80 | illegalRsv =>
    cases h; exact chainEffect_of_hasChain hv rfl

theorem unlessZero_chainEffect {i : Instr} {n : Nat} (hv : s.chainValid = true) (h : unlessZero n (exec i s) s = .next t) :
    ChainEffect i s t := by
  cases n with
  | zero => cases h; exact chainEffect_of_hasChain hv rfl
  | succ n => exact exec_chainEffect hv h

theorem execFor_chainEffect {i : Instr} {n : Nat} (hv : s.chainValid = true) (h : execFor n i s = .next t) : ChainEffect i s t := by
  cases i with
  | keyLoad => exact keyLoadFor_chainEffect hv h
  | blockEnc => exact chainEffect_of_hasChain hv (blockFor_hasChain .enc n s t h)
  | blockDec => exact chainEffect_of_hasChain hv (blockFor_hasChain .dec n s t h)
  | chainCrypt => exact chainCryptFor_chainEffect hv h
  | nop | clear | chainInitEnc | chainInitDec | illegalOpc08 | illegalOpc10 | illegalOpc20 | illegalOpc40 | illegalOpc80
  | illegalRsv => exact unlessZero_chainEffect hv h

end Commands

/-! ### The events -/

section Events

variable {s t : State}

theorem writeCmd_hasChain (v : Word) (s : State) : HasChain s (writeCmd v s) := by
  cases hb : s.busy with
  | true => rw [writeCmd_busy v hb]; rfl
  | false => rw [writeCmd_idle v hb]; rfl

theorem writeReg_hasChain (r : Reg) (v : Word) (s : State) : HasChain s (writeReg r v s) := by
  cases r with
  | cmd => exact writeCmd_hasChain v s
  | _ => rfl

theorem writeOffset_hasChain (off : BitVec 8) (v : Word) (s : State) : HasChain s (writeOffset off v s) := by
  cases h : regAt off with
  | none => rw [writeOffset_reserved v h]
  | some r => rw [writeOffset_reg v h]; exact writeReg_hasChain r v s

theorem regRead_hasChain (w : Width) (off : BitVec 8) (s : State) : Reaches (HasChain s) (regRead w off s) := by
  by_cases h : properAccess w off = true
  · rw [regRead_proper h, reaches_next]; rfl
  · rw [regRead_improper h]; exact reaches_refused

theorem regWrite_hasChain (w : Width) (off : BitVec 8) (v : Word) (s : State) : Reaches (HasChain s) (regWrite w off v s) := by
  by_cases h : properAccess w off = true
  · rw [regWrite_proper v h, reaches_next]; exact writeOffset_hasChain off v s
  · rw [regWrite_improper v h]; exact reaches_refused

theorem hostStore_hasChain (a : Word) (v : Byte) (s : State) : Reaches (HasChain s) (hostStore a v s) := by
  unfold hostStore
  split
  · exact reaches_refused
  · split <;> rw [reaches_next] <;> rfl

theorem hostLoad_hasChain (a : Word) (s : State) : Reaches (HasChain s) (hostLoad a s) := by
  unfold hostLoad
  split
  · exact reaches_refused
  · rw [reaches_next]; rfl

theorem hostClean_hasChain (a : Word) (s : State) : HasChain s (hostClean a s) := by
  unfold hostClean
  split
  · split <;> rfl
  · rfl

theorem busWrite_hasChain (a : Word) (v : Byte) (s : State) : Reaches (HasChain s) (busWrite a v s) := by
  unfold busWrite
  split
  · exact reaches_refused
  · rw [reaches_next]; rfl

/-- The chain is as it was, or it is left to the running command: what anything but a reset may do to it (R172, R226). -/
def KeptOrByCommand (s t : State) : Prop := HasChain s t ∨ (s.busy = true ∧ ChainEffect (fetch s) s t)

theorem engineTurn_chain {n : Nat} (hv : s.chainValid = true) (h : engineTurn n s = .next t) : KeptOrByCommand s t := by
  cases hb : s.busy with
  | true => rw [engineTurn_busy n hb] at h; exact .inr ⟨hb, execFor_chainEffect hv h⟩
  | false => rw [engineTurn_of_not_busy n hb] at h; cases h; exact .inl rfl

theorem engineAlone_chain (hv : s.chainValid = true) (h : engineAlone s = .next t) : KeptOrByCommand s t := by
  cases hb : s.busy with
  | true => rw [engineAlone_busy hb] at h; exact .inr ⟨hb, exec_chainEffect hv h⟩
  | false => rw [engineAlone_of_not_busy hb] at h; cases h; exact .inl rfl

theorem happen_chain {e : Event} (hv : s.chainValid = true) (h : happen e s = .next t) :
    (e = .reset ∧ t.chainValid = false) ∨ KeptOrByCommand s t := by
  cases e with
  | regRead w off => exact .inr (.inl (regRead_hasChain w off s t h))
  | regWrite w off v => exact .inr (.inl (regWrite_hasChain w off v s t h))
  | hostStore a v => exact .inr (.inl (hostStore_hasChain a v s t h))
  | hostLoad a => exact .inr (.inl (hostLoad_hasChain a s t h))
  | hostClean a => cases h; exact .inr (.inl (hostClean_hasChain a s))
  | hostInvalidate a => cases h; exact .inr (.inl rfl)
  | busWrite a v => exact .inr (.inl (busWrite_hasChain a v s t h))
  | reset => cases h; exact .inl ⟨rfl, rfl⟩
  | engine n => exact .inr (engineTurn_chain hv h)

theorem step_chain (hv : s.chainValid = true) (h : step s = .next t) :
    (s.inputs.head? = some .reset ∧ t.chainValid = false) ∨ KeptOrByCommand s t := by
  cases hi : s.inputs with
  | nil => rw [step_alone hi] at h; exact .inr (engineAlone_chain hv h)
  | cons e rest =>
    rw [step_event hi] at h
    obtain ⟨rfl, ht⟩ | hkept | ⟨hb, heff⟩ := happen_chain (s := { s with inputs := rest }) hv h
    · exact .inl ⟨rfl, ht⟩
    · exact .inr (.inl hkept)
    · exact .inr (.inr ⟨hb, heff.ends, heff.changes⟩)

end Events

/-- Settles O58, from what a step may do to a live chain. -/
theorem chainEndsOnlyAsListed : Obligations.ChainEndsOnlyAsListed := by
  unfold Obligations.ChainEndsOnlyAsListed
  intro s t hv h
  have hchanged (hne : t.cs ≠ s.cs ∨ t.cycles ≠ s.cycles ∨ t.chainDir ≠ s.chainDir) : ¬HasChain s t := by
    rw [chainOf_eq_iff]
    tauto
  obtain ⟨hreset, ht⟩ | hkept | ⟨hb, heff⟩ := step_chain hv h
  · exact ⟨fun _ => .inl hreset, fun htrue => (nomatch ht.symm.trans htrue)⟩
  · obtain ⟨hvalid, -⟩ := chainOf_eq_iff.1 hkept
    exact ⟨fun ht => (nomatch ht.symm.trans (hvalid.trans hv)), fun _ hne => absurd hkept (hchanged hne)⟩
  · exact ⟨fun ht => .inr ⟨hb, heff.ends ht⟩, fun ht hne => ⟨hb, heff.changes ht (hchanged hne)⟩⟩

end Sys2Proof.Proofs
end

section
/-! PROOFS. NOP and CLEAR (spec 44_control_commands.md R190, R191; 60_exceptions.md R203): their whole next states. -/

namespace Sys2Proof.Proofs

open Sys2Proof.Machine

/-- Settles O12: NOP is the completion and no more. -/
theorem nopCompletes : Obligations.NopCompletes := by
  unfold Obligations.NopCompletes
  intro s
  rw [exec_nop, complete]

/-- Settles O13: CLEAR is the reset of the key and the chain state, then the completion. -/
theorem clearDestroysKeyAndChain : Obligations.ClearDestroysKeyAndChain := by
  unfold Obligations.ClearDestroysKeyAndChain
  intro s
  rw [exec_clear, clearKeyAndChain, complete, zeroKey, zeroChaotic]

end Sys2Proof.Proofs
end

section
/-! PROOFS. Turns of the engine (spec 60_exceptions.md R202; 70_reset_and_hazards.md R251, R256): a command that a turn leaves running has
the rest of its work before it, and what the checks see is as it was. -/

namespace Sys2Proof.Proofs

open Sys2Proof.Machine Sys2Proof.Safety

/-! ### A turn of work -/

/-- A run in which `k` accesses go on is the run of the rest. -/
theorem runAccesses_rest {access : State → Work} {k n : Nat} {s u : State} (hk : k ≤ n) (h : runAccesses access k s = .going u) :
    runAccesses access n s = runAccesses access (n - k) u := by
  rw [← Nat.add_sub_cancel' hk, runAccesses_add, h, Nat.add_sub_cancel_left]

/-- A run that an access has ended stays ended, however many accesses are left. -/
theorem runAccesses_ended_of_le {access : State → Work} {k n : Nat} {s t : State} (hk : k ≤ n)
    (h : runAccesses access k s = .ended t) : runAccesses access n s = .ended t := by
  rw [← Nat.add_sub_cancel' hk, runAccesses_add, h]

theorem runAccesses_stuck_of_le {access : State → Work} {k n : Nat} {s : State} {f : Fault} (hk : k ≤ n)
    (h : runAccesses access k s = .stuck f) : runAccesses access n s = .stuck f := by
  rw [← Nat.add_sub_cancel' hk, runAccesses_add, h]

/-- Where a turn of work stops, seen from the whole of the work: on the way, with the rest before it; or at the end, as the whole. -/
theorem workFor_turn (access : State → Work) (commit : State → State) (n remaining : Nat) (s : State) :
    (∃ u, n ≤ remaining ∧ runAccesses access n s = .going u ∧ workFor access commit n remaining s = .next u ∧
      workFor access commit (remaining - n + 1) (remaining - n) u = workFor access commit (remaining + 1) remaining s) ∨
    workFor access commit n remaining s = workFor access commit (remaining + 1) remaining s := by
  obtain ⟨u, hr, ⟨hlt, e⟩ | ⟨hle, e⟩⟩ | ⟨t, hr, e⟩ | ⟨f, hr, e⟩ := workFor_cases access commit n remaining s
  · rw [Nat.min_eq_right hlt.le] at hr
    exact .inr (by rw [e, workFor_whole, hr])
  · rw [Nat.min_eq_left hle] at hr
    exact .inl ⟨u, hle, hr, e, by rw [workFor_whole, workFor_whole, runAccesses_rest hle hr]⟩
  · exact .inr (by rw [e, workFor_whole, runAccesses_ended_of_le (Nat.min_le_right ..) hr])
  · exact .inr (by rw [e, workFor_whole, runAccesses_stuck_of_le (Nat.min_le_right ..) hr])

/-- Validation lets the work run, or it has an answer that does not depend on the work. -/
theorem validated_decides (check : Option Report) (buffers : List (Nat × Nat)) (s : State) :
    (check = none ∧ ∀ b ∈ buffers, hasSideEffects s.setup.platform b.1 b.2 = false) ∨
    ∃ a, ∀ work, validated check buffers s work = a := by
  cases check with
  | some r => exact .inr ⟨_, fun _ => validated_fails rfl⟩
  | none =>
    by_cases h : buffers.any (fun b => hasSideEffects s.setup.platform b.1 b.2) = true
    · exact .inr ⟨_, fun _ => if_pos h⟩
    · exact .inl ⟨rfl, by simpa using h⟩

/-! ### Commands that reach memory -/

/-- A command that reaches memory, by its parts: the checks and the buffers of its validation, the state its work starts from, an
access, what its completion commits, and the accesses left. -/
structure MemoryCommand where
  check : State → Option Report
  buffers : State → List (Nat × Nat)
  start : State → State
  access : State → Work
  commit : State → State
  left : State → Nat

namespace MemoryCommand

/-- The command in a turn of `n` steps. -/
def turn (c : MemoryCommand) (n : Nat) (s : State) : Answer :=
  validated (c.check s) (c.buffers s) s (workFor c.access c.commit n (c.left s) (c.start s))

/-- The command from where it stands to its end. -/
def whole (c : MemoryCommand) (s : State) : Answer := c.turn (c.left s + 1) s

/-- The command of `s` runs on in `u`, with `m` accesses left: its validation passes as it did, and its work goes on from `u`. -/
structure Continues (c : MemoryCommand) (s : State) (m : Nat) (u : State) : Prop where
  check : c.check u = c.check s
  buffers : c.buffers u = c.buffers s
  setup : u.setup = s.setup
  start : c.start u = u
  left : c.left u = m
  busy : u.busy = true

/-- What a command's parts must do for its turns to fit together: its work starts with all its accesses left, and each access that goes
on makes one of them. -/
structure Resumable (c : MemoryCommand) : Prop where
  starts : ∀ s, s.busy = true → c.Continues s (c.left s) (c.start s)
  goes : ∀ m u v, c.left u = m + 1 → c.start u = u → u.busy = true → c.access u = .going v → c.Continues u m v

section Turns

variable {c : MemoryCommand} {s u v : State} {m n : Nat}

theorem Continues.trans {k : Nat} (h : c.Continues s m u) (h' : c.Continues u k v) : c.Continues s k v :=
  ⟨h'.check.trans h.check, h'.buffers.trans h.buffers, h'.setup.trans h.setup, h'.start, h'.left, h'.busy⟩

/-- Accesses that go on leave the command running, with that many accesses less to make. -/
theorem Resumable.continues (hc : c.Resumable) (hb : s.busy = true) (hn : n ≤ c.left s)
    (h : runAccesses c.access n (c.start s) = .going u) : c.Continues s (c.left s - n) u := by
  have keep (k : Nat) (x y : State) (hx : c.Continues s (c.left s - n + (k + 1)) x) (hxy : c.access x = .going y) :
      c.Continues s (c.left s - n + k) y := hx.trans (hc.goes _ x y hx.left hx.start hx.busy hxy)
  refine runAccesses_going_induction (P := fun k => c.Continues s (c.left s - n + k)) keep n _ u ?_ h
  rw [Nat.sub_add_cancel hn]
  exact hc.starts s hb

/-- Where the validation of `s` passes it passes again, and the rest of the command is the rest of its work. -/
theorem Continues.whole_eq (h : c.Continues s m u) (hcheck : c.check s = none)
    (hside : ∀ b ∈ c.buffers s, hasSideEffects s.setup.platform b.1 b.2 = false) :
    c.whole u = workFor c.access c.commit (m + 1) m u := by
  rw [whole, turn, h.left, h.start, h.check, h.buffers]
  exact validated_passes hcheck (h.setup ▸ hside)

/-- A turn of a resumable command either leaves it running, with the rest of it as the whole, or answers as the whole. -/
theorem Resumable.turn_cases (hc : c.Resumable) (hb : s.busy = true) (n : Nat) :
    (∃ u, c.turn n s = .next u ∧ u.busy = true ∧ c.whole u = c.whole s) ∨ c.turn n s = c.whole s := by
  obtain ⟨hcheck, hside⟩ | ⟨a, ha⟩ := validated_decides (c.check s) (c.buffers s) s
  · have passes (work : Answer) : validated (c.check s) (c.buffers s) s work = work := validated_passes hcheck hside
    rw [whole, turn, turn, passes, passes]
    obtain ⟨u, hle, hrun, e, hrest⟩ | e := workFor_turn c.access c.commit n (c.left s) (c.start s)
    · have hu := hc.continues hb hle hrun
      exact .inl ⟨u, e, hu.busy, (hu.whole_eq hcheck hside).trans hrest⟩
    · exact .inr e
  · exact .inr ((ha _).trans (ha _).symm)

end Turns

end MemoryCommand

/-! ### The accesses of each command -/

section Commands

variable {s v : State} {m n : Nat}

theorem accessesLeft_of_not_held (h : s.held = none) : accessesLeft n s = 2 * (n - s.idx.toNat) := by
  simp [accessesLeft, h]

theorem accessesLeft_of_held {b : Byte} (h : s.held = some b) : accessesLeft n s = 2 * (n - s.idx.toNat) - 1 := by
  simp [accessesLeft, h]

/-- A data access that goes on reads a byte when none is in flight, and writes the one that is. -/
theorem dataAccess_advances {dir : Dir} {x : Chaotic} {put : Chaotic → State → State} {lose : State → State}
    (h : dataAccess dir x put lose s = .going v) :
    (s.held = none ∧ ∃ b, v = { s with held := some b }) ∨
    ∃ (b : Byte) (g : Gen) (mem : Memory), s.held = some b ∧
      v = put g.chaos { s with nx := g.nx, draws := g.draws, mem := mem, held := none, idx := s.idx + 1 } := by
  cases hh : s.held with
  | none =>
    rw [dataAccess_read hh] at h
    obtain ⟨-, e⟩ | ⟨-, e⟩ | ⟨b, -, e⟩ := readAccess_cases lose s <;> rw [e] at h <;> cases h
    exact .inl ⟨rfl, b, rfl⟩
  | some b =>
    rw [dataAccess_write hh] at h
    obtain ⟨-, e⟩ | ⟨-, e⟩ | ⟨mem, -, e⟩ := writeAccess_cases dir x put lose b s <;> rw [e] at h <;> cases h
    exact .inr ⟨b, _, mem, rfl, rfl⟩

/-- IDX does not wrap while it counts the bytes of a buffer of `k` bytes (R48). -/
theorem toNat_succ_of_lt {i : Word} {k : Nat} (hi : i.toNat < k) (hk : k < 2 ^ 32) : (i + 1).toNat = i.toNat + 1 :=
  toNat_add_ofNat (k := 1) (by omega)

theorem accessesLeft_read (hh : s.held = none) (b : Byte) (h : accessesLeft n s = m + 1) :
    accessesLeft n { s with held := some b } = m := by
  rw [accessesLeft_of_not_held hh] at h
  rw [accessesLeft_of_held rfl, h, Nat.add_sub_cancel]

theorem accessesLeft_write {b : Byte} (hh : s.held = some b) (hn : n < 2 ^ 32) (h : accessesLeft n s = m + 1) (hv : v.held = none)
    (hi : v.idx = s.idx + 1) : accessesLeft n v = m := by
  rw [accessesLeft_of_held hh] at h
  rw [accessesLeft_of_not_held hv, hi, toNat_succ_of_lt (k := n) (by omega) hn]
  omega

/-- KEY_LOAD by its parts (R110). -/
def keyLoadCommand : MemoryCommand where
  check := checkKeyLoad
  buffers s := [(s.latch.keyAddr.toNat, 18)]
  start := id
  access := keyByte
  commit := commitKey
  left s := 18 - s.idx.toNat

/-- A single-block command by its parts (R152, R153). -/
def blockCommand (d : Dir) : MemoryCommand where
  check := checkBlock
  buffers s := [(s.latch.srcAddr.toNat, 16), (s.latch.dstAddr.toNat, 16)]
  start := deriveTs
  access := blockAccess d
  commit := id
  left := accessesLeft 16

/-- CHAIN_CRYPT by its parts (R175). -/
def chainCryptCommand : MemoryCommand where
  check := checkChainCrypt
  buffers s := [(s.latch.srcAddr.toNat, s.latch.srcLen.toNat), (s.latch.dstAddr.toNat, s.latch.srcLen.toNat)]
  start := id
  access := chainAccess
  commit := id
  left s := accessesLeft s.latch.srcLen.toNat s

theorem keyLoadFor_eq_turn (n : Nat) (s : State) : keyLoadFor n s = keyLoadCommand.turn n s := rfl

theorem blockFor_eq_turn (d : Dir) (n : Nat) (s : State) : blockFor d n s = (blockCommand d).turn n s := rfl

theorem chainCryptFor_eq_turn (n : Nat) (s : State) : chainCryptFor n s = chainCryptCommand.turn n s := rfl

theorem exec_keyLoad_eq_whole (s : State) : exec .keyLoad s = keyLoadCommand.whole s := rfl

theorem exec_blockInstr_eq_whole (d : Dir) (s : State) : exec (blockInstr d) s = (blockCommand d).whole s := exec_blockInstr d s

theorem exec_chainCrypt_eq_whole (s : State) : exec .chainCrypt s = chainCryptCommand.whole s := rfl

theorem keyLoadCommand_resumable : keyLoadCommand.Resumable where
  starts _ hb := ⟨rfl, rfl, rfl, rfl, rfl, hb⟩
  goes m u v hl _ hb h := by
    obtain ⟨-, e⟩ | ⟨-, e⟩ | ⟨b, -, e⟩ := keyByte_cases u <;> cases e.symm.trans h
    have hleft : 18 - u.idx.toNat = m + 1 := hl
    refine ⟨rfl, rfl, rfl, rfl, ?_, hb⟩
    show 18 - (u.idx + 1).toNat = m
    rw [toNat_succ_of_lt (k := 18) (by omega) (by decide)]
    omega

theorem blockCommand_resumable (d : Dir) : (blockCommand d).Resumable where
  starts _ hb := ⟨rfl, rfl, rfl, rfl, rfl, hb⟩
  goes m u v hl hst hb h := by
    obtain ⟨hh, b, rfl⟩ | ⟨b, g, mem, hh, rfl⟩ := dataAccess_advances h
    · have derived : deriveTs { u with held := some b } = { u with held := some b } :=
        congrArg (fun w : State => { w with held := some b }) hst
      exact ⟨rfl, rfl, rfl, derived, accessesLeft_read hh b hl, hb⟩
    · exact ⟨rfl, rfl, rfl, rfl, accessesLeft_write hh (by decide) hl rfl rfl, hb⟩

theorem chainCryptCommand_resumable : chainCryptCommand.Resumable where
  starts _ hb := ⟨rfl, rfl, rfl, rfl, rfl, hb⟩
  goes m u v hl _ hb h := by
    obtain ⟨hh, b, rfl⟩ | ⟨b, g, mem, hh, rfl⟩ := dataAccess_advances h
    · exact ⟨rfl, rfl, rfl, rfl, accessesLeft_read hh b hl, hb⟩
    · exact ⟨rfl, rfl, rfl, rfl, accessesLeft_write hh u.latch.srcLen.isLt hl rfl rfl, hb⟩

/-! ### Turns of any command -/

/-- The turn of a command either leaves it running, with the rest of it as the whole, or answers as the whole. -/
def TurnFits (n : Nat) (i : Instr) (s : State) : Prop :=
  (∃ u, execFor n i s = .next u ∧ u.busy = true ∧ exec i u = exec i s) ∨ execFor n i s = exec i s

/-- A command that makes no access has ended after its first step. -/
theorem unlessZero_cases (n : Nat) (whole : Answer) (s : State) :
    unlessZero n whole s = .next s ∨ unlessZero n whole s = whole := by
  cases n with
  | zero => exact .inl rfl
  | succ n => exact .inr rfl

theorem turnFits_of_unlessZero {i : Instr} (hb : s.busy = true) (h : execFor n i s = unlessZero n (exec i s) s) : TurnFits n i s := by
  rw [TurnFits, h]
  exact (unlessZero_cases n (exec i s) s).imp_left fun e => ⟨s, e, hb, rfl⟩

theorem MemoryCommand.Resumable.turnFits {c : MemoryCommand} (hc : c.Resumable) {i : Instr} (hb : s.busy = true)
    (hturn : execFor n i s = c.turn n s) (hwhole : ∀ u, exec i u = c.whole u) : TurnFits n i s := by
  simp only [TurnFits, hturn, hwhole]
  exact hc.turn_cases hb n

theorem execFor_turnFits (hb : s.busy = true) (n : Nat) (i : Instr) : TurnFits n i s := by
  cases i with
  | keyLoad => exact keyLoadCommand_resumable.turnFits hb (keyLoadFor_eq_turn n s) exec_keyLoad_eq_whole
  | blockEnc =>
    exact (blockCommand_resumable .enc).turnFits hb (blockFor_eq_turn .enc n s) (exec_blockInstr_eq_whole .enc)
  | blockDec =>
    exact (blockCommand_resumable .dec).turnFits hb (blockFor_eq_turn .dec n s) (exec_blockInstr_eq_whole .dec)
  | chainCrypt => exact chainCryptCommand_resumable.turnFits hb (chainCryptFor_eq_turn n s) exec_chainCrypt_eq_whole
  | nop | clear | chainInitEnc | chainInitDec | illegalOpc08 | illegalOpc10 | illegalOpc20 | illegalOpc40 | illegalOpc80
  | illegalRsv => exact turnFits_of_unlessZero hb rfl

end Commands

/-- Settles O6: a turn leaves the command running, where the rest of it is the whole, or it ends as the whole does; and a command that has
run to its end is not running. -/
theorem turnsComposeToWholeCommand : Obligations.TurnsComposeToWholeCommand := by
  unfold Obligations.TurnsComposeToWholeCommand
  intro i n s hb
  obtain ⟨u, hturn, hub, hrest⟩ | hturn := execFor_turnFits hb n i
  · rw [hturn]
    refine ⟨fun t ht _ => ?_, fun t ht hidle => ?_, nofun⟩ <;> cases ht
    · exact hrest
    · cases hub.symm.trans hidle
  · rw [hturn]
    exact ⟨fun t ht hbusy => (nomatch hbusy.symm.trans (exec_idle ht)), fun t ht _ => ht, fun f hf => hf⟩

end Sys2Proof.Proofs
end

section
/-! PROOFS. The writes to CMD (spec 60_exceptions.md R200, R201): accepted while idle, dropped with OVR set while busy. -/

namespace Sys2Proof.Proofs

open Sys2Proof.Machine

/-- With a write to CMD waiting, the step is that write (R32). -/
theorem step_writeCmd {s : State} {w : Word} {rest : List Event} (h : s.inputs = .regWrite .w32 0x08 w :: rest) :
    step s = .next (writeCmd w { s with inputs := rest }) := by
  have proper : properAccess .w32 0x08 = true := by decide
  rw [step_event h, happen, regWrite_proper w proper, writeOffset_reg (r := .cmd) w rfl, writeReg]

/-- Settles O45: the write is the acceptance of its word. -/
theorem idleCommandWriteIsAccepted : Obligations.IdleCommandWriteIsAccepted := by
  unfold Obligations.IdleCommandWriteIsAccepted
  intro s w rest idle h
  refine ⟨accept w { s with inputs := rest }, ?_, ?_, ?_⟩
  · rw [step_writeCmd h, writeCmd_idle (s := { s with inputs := rest }) w idle]
  · rw [fetch, accept_lCmd]
  · rw [accept]

/-- Settles O46: the write sets OVR and does no more. -/
theorem busyCommandWriteIsDropped : Obligations.BusyCommandWriteIsDropped := by
  unfold Obligations.BusyCommandWriteIsDropped
  intro s w rest busy h
  rw [step_writeCmd h, writeCmd_busy (s := { s with inputs := rest }) w busy]

end Sys2Proof.Proofs
end

section
/-! PROOFS. The errors of codes 1 to 7 and 9 (spec 60_exceptions.md R205, R207): the report is made before any access, from the latched
operands and from what the engine holds, so neither memory nor the platform has a part in it. -/

namespace Sys2Proof.Proofs

open Sys2Proof.Machine Sys2Proof.Safety

/-- What the command `i` reports in `s` before it makes an access: its first failed check, or that its word is illegal (R83, R206). -/
def reportOf (i : Instr) (s : State) : Option Report :=
  match i with
  | .nop => none
  | .keyLoad => checkKeyLoad s
  | .blockEnc => checkBlock s
  | .blockDec => checkBlock s
  | .chainInitEnc => checkChainInit s
  | .chainInitDec => checkChainInit s
  | .chainCrypt => checkChainCrypt s
  | .clear => none
  | .illegalOpc08 _ => some ⟨.illegalCommand, .none, s.lCmd⟩
  | .illegalOpc10 _ => some ⟨.illegalCommand, .none, s.lCmd⟩
  | .illegalOpc20 _ => some ⟨.illegalCommand, .none, s.lCmd⟩
  | .illegalOpc40 _ => some ⟨.illegalCommand, .none, s.lCmd⟩
  | .illegalOpc80 _ => some ⟨.illegalCommand, .none, s.lCmd⟩
  | .illegalRsv _ => some ⟨.illegalCommand, .none, s.lCmd⟩

/-- No report, or the report of a bus error: how a command ends that its checks let pass. -/
def OnlyBusError (s : State) : Prop := s.err = .none ∨ s.err = .busError

section Reports

variable {s : State}

theorem chainInit_fails (d : Dir) {r : Report} (h : checkChainInit s = some r) : chainInit d s = .next (raiseError r s) := by
  rw [chainInit, h]

/-- A report ends the command. -/
theorem exec_of_reportOf {i : Instr} {r : Report} (h : reportOf i s = some r) : exec i s = .next (raiseError r s) := by
  cases i with
  | nop | clear => cases h
  | keyLoad => exact validated_fails h
  | blockEnc | blockDec => exact validated_fails h
  | chainInitEnc => exact chainInit_fails .enc h
  | chainInitDec => exact chainInit_fails .dec h
  | chainCrypt => exact validated_fails h
  | illegalOpc08 | illegalOpc10 | illegalOpc20 | illegalOpc40 | illegalOpc80 | illegalRsv => cases h; rfl

theorem dataAccess_onlyBusError {dir : Dir} {c : Chaotic} {put : Chaotic → State → State} {lose : State → State}
    (hput : ∀ x u, (put x u).err = u.err) (hs : OnlyBusError s) : Leaves OnlyBusError (dataAccess dir c put lose s) :=
  dataAccess_leaves (fun _ => hs) (fun x nx draws m => by rw [OnlyBusError, hput]; exact hs) (fun _ _ _ _ => .inr rfl)

theorem blockAccess_onlyBusError (d : Dir) (hs : OnlyBusError s) : Leaves OnlyBusError (blockAccess d s) :=
  dataAccess_onlyBusError (fun _ _ => rfl) hs

theorem chainAccess_onlyBusError (hs : OnlyBusError s) : Leaves OnlyBusError (chainAccess s) :=
  dataAccess_onlyBusError (fun _ _ => rfl) hs

theorem keyByte_onlyBusError (hs : OnlyBusError s) : Leaves OnlyBusError (keyByte s) := by
  obtain ⟨-, e⟩ | ⟨-, e⟩ | ⟨b, -, e⟩ := keyByte_cases s <;> rw [e]
  · exact .inr rfl
  · trivial
  · exact hs

/-- A validation whose checks pass reaches what its work reaches. -/
theorem validated_reaches_of_none {P : State → Prop} {check : Option Report} {buffers : List (Nat × Nat)} {work : Answer}
    (hcheck : check = none) (works : Reaches P work) : Reaches P (validated check buffers s work) := by
  obtain ⟨r, hr, -⟩ | ⟨-, -, e⟩ | ⟨-, -, e⟩ := validated_cases check buffers s work
  · cases hcheck.symm.trans hr
  · rw [e]; exact reaches_fault
  · rw [e]; exact works

theorem keyLoadFor_onlyBusError (n : Nat) (h : checkKeyLoad s = none) (hs : OnlyBusError s) :
    Reaches OnlyBusError (keyLoadFor n s) :=
  validated_reaches_of_none h
    (workFor_reaches (commit := commitKey) (fun _ => keyByte_onlyBusError) (fun _ hu => hu) n _ hs)

theorem blockFor_onlyBusError (d : Dir) (n : Nat) (h : checkBlock s = none) (hs : OnlyBusError s) :
    Reaches OnlyBusError (blockFor d n s) :=
  validated_reaches_of_none h
    (workFor_reaches (commit := id) (s := deriveTs s) (fun _ => blockAccess_onlyBusError d) (fun _ hu => hu) n _ hs)

theorem chainCryptFor_onlyBusError (n : Nat) (h : checkChainCrypt s = none) (hs : OnlyBusError s) :
    Reaches OnlyBusError (chainCryptFor n s) :=
  validated_reaches_of_none h
    (workFor_reaches (commit := id) (fun _ => chainAccess_onlyBusError) (fun _ hu => hu) n _ hs)

theorem chainInit_onlyBusError (d : Dir) (h : checkChainInit s = none) (hs : OnlyBusError s) :
    Reaches OnlyBusError (chainInit d s) := by
  rw [chainInit, h]
  exact reaches_next.2 hs

/-- Past its checks a command can end with no other error than a bus error (R205). -/
theorem exec_onlyBusError {i : Instr} (h : reportOf i s = none) (hs : OnlyBusError s) : Reaches OnlyBusError (exec i s) := by
  cases i with
  | nop | clear => exact reaches_next.2 hs
  | keyLoad => exact keyLoadFor_onlyBusError _ h hs
  | blockEnc => exact blockFor_onlyBusError .enc _ h hs
  | blockDec => exact blockFor_onlyBusError .dec _ h hs
  | chainInitEnc => exact chainInit_onlyBusError .enc h hs
  | chainInitDec => exact chainInit_onlyBusError .dec h hs
  | chainCrypt => exact chainCryptFor_onlyBusError _ h hs
  | illegalOpc08 | illegalOpc10 | illegalOpc20 | illegalOpc40 | illegalOpc80 | illegalRsv => cases h

/-- The report depends neither on memory nor on the platform. -/
theorem reportOf_elsewhere (i : Instr) (s : State) (m : Memory) (p : Platform) :
    reportOf i { s with mem := m, setup := { s.setup with platform := p } } = reportOf i s := by
  cases i <;> rfl

/-- With nothing in flight, the end with an error changes the report, DONE and BUSY only (R204, R207). -/
theorem raiseError_frame (r : Report) (hts : s.ts = none) (hheld : s.held = none) :
    raiseError r s = { s with busy := false, done := true, err := r.err, errArg := r.arg, errInfo := r.info } := by
  rw [raiseError, ← hts, ← hheld]

end Reports

/-- Settles O23: the error is the report made before any access, and the state it leaves is that of `raiseError`. -/
theorem validationErrorsHaveNoEffect : Obligations.ValidationErrorsHaveNoEffect := by
  unfold Obligations.ValidationErrorsHaveNoEffect
  intro i s t herr hts hheld h hfail hbus
  cases hr : reportOf i s with
  | none => exact ((exec_onlyBusError hr (.inl herr) t h).elim hfail hbus).elim
  | some r =>
    cases (exec_of_reportOf hr).symm.trans h
    exact ⟨raiseError_frame r hts hheld, fun m p => exec_of_reportOf ((reportOf_elsewhere i s m p).trans hr)⟩

end Sys2Proof.Proofs
end

section
/-! PROOFS. Bus errors in the work phase (spec 60_exceptions.md R208; 20_memory.md R78; 10_state.md R48): the bytes before the one that
fails are moved, then the command ends. -/

namespace Sys2Proof.Proofs

open Sys2Proof.Machine Sys2Proof.Safety

/-- Work whose first `k` accesses go on and whose next `j` end the command ends there. -/
theorem workFor_whole_ended {access : State → Work} {commit : State → State} {k j n : Nat} {s u t : State} (hn : k + j ≤ n)
    (hrun : runAccesses access k s = .going u) (hend : runAccesses access j u = .ended t) :
    workFor access commit (n + 1) n s = .next t := by
  have hended : runAccesses access (k + j) s = .ended t := by
    rw [runAccesses_add, hrun]
    exact hend
  rw [workFor_whole, runAccesses_ended_of_le hn hended]

/-- The address of byte `k` of a buffer, with `k` in IDX (R48). -/
theorem add_toNat_ofNat (base : Nat) {k : Nat} (hk : k < 2 ^ 32) : base + (BitVec.ofNat 32 k).toNat = base + k := by
  rw [BitVec.toNat_ofNat, Nat.mod_eq_of_lt hk]

/-! ### KEY_LOAD -/

theorem keyByte_error {s : State} {a : Nat} (ha : keyBase s + s.idx.toNat = a)
    (h : inRanges s.setup.platform.busErrRead a = true) :
    keyByte s = .ended (endedWith .busError .key (BitVec.ofNat 32 a) s) := by
  subst ha
  rw [keyBase] at h
  rw [keyByte, memRead, if_pos h]
  rfl

/-- Settles O25: the bytes before byte `k` are gathered, and the read of byte `k` ends the command. -/
theorem keyLoadBusErrorNamesTheByte : Obligations.KeyLoadBusErrorNamesTheByte := by
  unfold Obligations.KeyLoadBusErrorNamesTheByte
  intro s k hidx hp hk hA herr
  obtain ⟨kb, -, hrun⟩ := runAccesses_key hidx hA hk.le
  have hend := keyByte_error (s := { s with kb := kb, idx := BitVec.ofNat 32 k }) (add_toNat_ofNat (keyBase s) (by omega)) herr
  have hleft : 18 - s.idx.toNat = 18 := by rw [hidx]; rfl
  have hexec := exec_keyLoad_passes hp
  rw [hleft, workFor_whole_ended hk hrun (runAccesses_succ_ended 0 hend)] at hexec
  exact ⟨_, hexec, rfl⟩

/-! ### One byte of a data command -/

section Accesses

variable {s : State} {a b : Nat} (hheld : s.held = none) (ha : src s + s.idx.toNat = a)
include hheld ha

theorem blockByte_read_error (d : Dir) (hr : inRanges s.setup.platform.busErrRead a = true) :
    runAccesses (blockAccess d) 1 s = .ended (endedWith .busError .source (BitVec.ofNat 32 a) s) := by
  subst ha
  exact runAccesses_succ_ended 0 ((dataAccess_read hheld).trans (readAccess_error hr))

theorem chainByte_read_error (hr : inRanges s.setup.platform.busErrRead a = true) :
    runAccesses chainAccess 1 s = .ended (endedWith .busError .source (BitVec.ofNat 32 a) (loseChain s)) := by
  subst ha
  exact runAccesses_succ_ended 0 ((dataAccess_read hheld).trans (readAccess_error hr))

variable (hr : inRanges s.setup.platform.busErrRead a = false ∧ holdsMemory s.setup.platform a = true)
variable (hb : dst s + s.idx.toNat = b) (hw : inRanges s.setup.platform.busErrWrite b = true)
include hr hb hw

/-- The byte is converted before its write fails, so NX and the draws have advanced (log 28). -/
theorem blockByte_write_error (d : Dir) {c : Chaotic} (hts : s.ts = some c) :
    runAccesses (blockAccess d) 2 s = .ended (endedWith .busError .destination (BitVec.ofNat 32 b)
      { s with nx := (updateCycle s.setup (genOf c s)).nx, draws := (updateCycle s.setup (genOf c s)).draws }) := by
  subst ha hb
  have hread : blockAccess d s = .going { s with held := some (s.mem.read (src s + s.idx.toNat)) } :=
    (dataAccess_read hheld).trans (readAccess_going hr)
  rw [runAccesses_succ_going 1 hread]
  refine runAccesses_succ_ended 0 ((dataAccess_write rfl).trans ((writeAccess_error (s := { s with held := some _ }) hw).trans ?_))
  simp only [transient, hts]
  rfl

theorem chainByte_write_error :
    runAccesses chainAccess 2 s = .ended (endedWith .busError .destination (BitVec.ofNat 32 b) (loseChain
      { s with nx := (updateCycle s.setup (genOf s.cs s)).nx, draws := (updateCycle s.setup (genOf s.cs s)).draws })) := by
  subst ha hb
  have hread : chainAccess s = .going { s with held := some (s.mem.read (src s + s.idx.toNat)) } :=
    (dataAccess_read hheld).trans (readAccess_going hr)
  rw [runAccesses_succ_going 1 hread]
  exact runAccesses_succ_ended 0 ((dataAccess_write rfl).trans (writeAccess_error (s := { s with held := some _ }) hw))

end Accesses

/-! ### Data commands -/

/-- A single-block command that has moved `k` bytes and left the memory `m`. -/
abbrev blockAt (s : State) (k : Nat) (m : Memory) : State :=
  { s with
    mem := m, nx := (cycles s.setup (genOf (keySchedule s.setup s.key) s) k).nx,
    draws := (cycles s.setup (genOf (keySchedule s.setup s.key) s) k).draws, idx := BitVec.ofNat 32 k, held := none,
    ts := some (cycles s.setup (genOf (keySchedule s.setup s.key) s) k).chaos }

/-- A CHAIN_CRYPT that has moved `k` bytes and left the memory `m`. -/
abbrev chainAt (s : State) (k : Nat) (m : Memory) : State :=
  { s with
    mem := m, nx := (cycles s.setup (genOf s.cs s) k).nx, draws := (cycles s.setup (genOf s.cs s) k).draws,
    idx := BitVec.ofNat 32 k, held := none, cs := (cycles s.setup (genOf s.cs s) k).chaos,
    cycles := s.cycles + BitVec.ofNat 64 k }

section DataCommands

variable {s : State} {n k : Nat}

/-- Where the write of byte `k` is the first access that fails, the bytes before it are answered. -/
theorem dataAnswered_of_writeFails (h : WriteFailsAt s k) : DataAnswered s k := by
  obtain ⟨hreads, hwrites, -⟩ := h
  exact ⟨fun j hj => hreads j (hj.trans k.lt_succ_self), hwrites⟩

/-- A single-block command moves the bytes before byte `k`, and ends where an access of byte `k` ends it. -/
theorem exec_block_ends_at (d : Dir) (hf : Fresh s) (hwf : s.mem.wf = true) (hp : BlockPasses s) (hk : k < 16)
    (hA : DataAnswered s k) :
    ∃ m, Moved d s (keySchedule s.setup s.key) k m ∧ ∀ j t, j ≤ 2 →
      runAccesses (blockAccess d) j (blockAt s k m) = .ended t → exec (blockInstr d) s = .next t := by
  have ⟨hidx, _, hheld⟩ := hf
  have ⟨_, _, _, _, _, hov, _, _⟩ := hp
  obtain ⟨m, hm, hrun⟩ := runAccesses_block (dir := d) (s := deriveTs s) (deriveTs_fresh hf) hidx hheld hwf hov hA hk.le (by decide)
  refine ⟨m, hm, fun j t hj hend => ?_⟩
  rw [exec_blockInstr_passes d hp, accessesLeft_fresh 16 hf]
  exact workFor_whole_ended (by omega) hrun hend

/-- CHAIN_CRYPT moves the bytes before byte `k`, and ends where an access of byte `k` ends it. -/
theorem exec_chain_ends_at (hf : Fresh s) (hwf : s.mem.wf = true) (hp : ChainPasses s n) (hk : k < n) (hA : DataAnswered s k) :
    ∃ m, Moved s.chainDir s s.cs k m ∧ ∀ j t, j ≤ 2 →
      runAccesses chainAccess j (chainAt s k m) = .ended t → exec .chainCrypt s = .next t := by
  have ⟨hidx, _, hheld⟩ := hf
  have ⟨_, hlen, _, _, _, _, hov, _, _⟩ := hp
  have hn : n < 2 ^ 32 := hlen ▸ s.latch.srcLen.isLt
  obtain ⟨m, hm, hrun⟩ := runAccesses_chain hidx hheld hwf hov hA hk.le hn
  refine ⟨m, hm, fun j t hj hend => ?_⟩
  rw [exec_chainCrypt_passes hp, accessesLeft_fresh n hf]
  exact workFor_whole_ended (by omega) hrun hend

end DataCommands

/-- Settles O26: the bytes before byte `k` are moved, and its read or its write ends the command. -/
theorem blockBusErrorKeepsEarlierBytes : Obligations.BlockBusErrorKeepsEarlierBytes := by
  unfold Obligations.BlockBusErrorKeepsEarlierBytes
  intro d s k hf hwf hp hk
  have hsrc : src s + (BitVec.ofNat 32 k).toNat = src s + k := add_toNat_ofNat _ (by omega)
  have hdst : dst s + (BitVec.ofNat 32 k).toNat = dst s + k := add_toNat_ofNat _ (by omega)
  refine ⟨fun hfail => ?read, fun hfail => ?write⟩
  case read =>
    obtain ⟨hA, herr⟩ := hfail
    obtain ⟨m, ⟨-, hbytes, hframe⟩, hends⟩ := exec_block_ends_at d hf hwf hp hk hA
    have hexec := hends 1 _ (by decide) (blockByte_read_error (s := blockAt s k m) rfl hsrc d herr)
    exact ⟨_, hexec, rfl, hbytes, hframe⟩
  case write =>
    have hA := dataAnswered_of_writeFails hfail
    obtain ⟨hreads, -, herr⟩ := hfail
    obtain ⟨m, ⟨-, hbytes, hframe⟩, hends⟩ := exec_block_ends_at d hf hwf hp hk hA
    have hexec := hends 2 _ le_rfl (blockByte_write_error (s := blockAt s k m) rfl hsrc (hreads k k.lt_succ_self) hdst herr d rfl)
    exact ⟨_, hexec, rfl, hbytes, hframe⟩

/-- Settles O27: as for a single-block command, and the bus error ends the chain. -/
theorem chainBusErrorEndsTheChain : Obligations.ChainBusErrorEndsTheChain := by
  unfold Obligations.ChainBusErrorEndsTheChain
  intro s n k hf hwf hp hk
  have ⟨_, hlen, _⟩ := hp
  have hk32 : k < 2 ^ 32 := hk.trans (hlen ▸ s.latch.srcLen.isLt)
  have hsrc : src s + (BitVec.ofNat 32 k).toNat = src s + k := add_toNat_ofNat _ hk32
  have hdst : dst s + (BitVec.ofNat 32 k).toNat = dst s + k := add_toNat_ofNat _ hk32
  refine ⟨fun hfail => ?read, fun hfail => ?write⟩
  case read =>
    obtain ⟨hA, herr⟩ := hfail
    obtain ⟨m, ⟨-, hbytes, hframe⟩, hends⟩ := exec_chain_ends_at hf hwf hp hk hA
    have hexec := hends 1 _ (by decide) (chainByte_read_error (s := chainAt s k m) rfl hsrc herr)
    exact ⟨_, hexec, rfl, hbytes, hframe⟩
  case write =>
    have hA := dataAnswered_of_writeFails hfail
    obtain ⟨hreads, -, herr⟩ := hfail
    obtain ⟨m, ⟨-, hbytes, hframe⟩, hends⟩ := exec_chain_ends_at hf hwf hp hk hA
    have hexec := hends 2 _ le_rfl (chainByte_write_error (s := chainAt s k m) rfl hsrc (hreads k k.lt_succ_self) hdst herr)
    exact ⟨_, hexec, rfl, hbytes, hframe⟩

end Sys2Proof.Proofs
end

section
/-! PROOFS. What a host and other masters can change (spec 10_state.md R44; 60_exceptions.md R202), reset (70_reset_and_hazards.md R240),
and what changes the key (R242). -/

namespace Sys2Proof.Proofs

open Sys2Proof.Machine Sys2Proof.Safety

/-! ### Hosts and other masters -/

/-- The second state is the first but for what hosts and other masters may change while a command runs: memory, the host's caches,
CTRL.IE, the flags of STATUS that are theirs to clear, the operand registers and the replies (R44). -/
inductive Beside (s : State) : State → Prop where
  | changes (mem : Memory) (hostCache : List CacheLine) (ie done nx ovr : Bool) (ops : Operands) (replies : List Reply) :
      Beside s
        { s with
          mem := mem, hostCache := hostCache, ie := ie, done := done, nx := nx, ovr := ovr, ops := ops, replies := replies }

section Agents

variable {s t : State}

theorem beside_refl (s : State) : Beside s s := .changes ..

/-- A register write is the acceptance of a command while idle, or leaves the running command's own parts of the state alone. -/
theorem writeReg_cases (r : Reg) (v : Word) (s : State) :
    (s.busy = false ∧ writeReg r v s = accept v s) ∨ Beside s (writeReg r v s) := by
  cases r with
  | cmd =>
    cases hb : s.busy with
    | true => rw [writeReg, writeCmd_busy v hb]; exact .inr (.changes ..)
    | false => exact .inl ⟨rfl, writeCmd_idle v hb⟩
  | _ => exact .inr (.changes ..)

theorem writeOffset_cases (off : BitVec 8) (v : Word) (s : State) :
    (s.busy = false ∧ writeOffset off v s = accept v s) ∨ Beside s (writeOffset off v s) := by
  cases hr : regAt off with
  | none => rw [writeOffset_reserved v hr]; exact .inr (beside_refl s)
  | some r => rw [writeOffset_reg v hr]; exact writeReg_cases r v s

theorem regRead_next {w : Width} {off : BitVec 8} (h : regRead w off s = .next t) :
    t = { s with replies := s.replies ++ [.reg off (readOffset s off).1], draws := (readOffset s off).2 } := by
  by_cases hp : properAccess w off = true
  · cases (regRead_proper hp).symm.trans h; rfl
  · cases (regRead_improper hp).symm.trans h

theorem regWrite_next {w : Width} {off : BitVec 8} {v : Word} (h : regWrite w off v s = .next t) : t = writeOffset off v s := by
  by_cases hp : properAccess w off = true
  · cases (regWrite_proper v hp).symm.trans h; rfl
  · cases (regWrite_improper v hp).symm.trans h

theorem hostStore_beside {a : Word} {v : Byte} (h : hostStore a v s = .next t) : Beside s t := by
  unfold hostStore at h
  split at h
  · cases h
  · split at h <;> cases h <;> exact .changes ..

theorem hostLoad_beside {a : Word} (h : hostLoad a s = .next t) : Beside s t := by
  unfold hostLoad at h
  split at h <;> cases h
  exact .changes ..

theorem hostClean_beside (a : Word) (s : State) : Beside s (hostClean a s) := by
  unfold hostClean
  split
  · split
    · exact .changes ..
    · exact beside_refl s
  · exact beside_refl s

theorem busWrite_beside {a : Word} {v : Byte} (h : busWrite a v s = .next t) : Beside s t := by
  unfold busWrite at h
  split at h <;> cases h
  exact .changes ..

/-- What an event that is neither reset nor the engine's turn does: it starts a command while idle, it reads a register, or it leaves
the running command's own parts of the state alone. -/
theorem happen_cases {e : Event} (hreset : e ≠ .reset) (hturn : ∀ n, e ≠ .engine n) (h : happen e s = .next t) :
    (s.busy = false ∧ ∃ w, t = accept w s) ∨
    (∃ w off, e = .regRead w off ∧
      t = { s with replies := s.replies ++ [.reg off (readOffset s off).1], draws := (readOffset s off).2 }) ∨
    Beside s t := by
  cases e with
  | regRead w off =>
    exact .inr (.inl ⟨w, off, rfl, regRead_next h⟩)
  | regWrite w off v =>
    obtain rfl := regWrite_next h
    exact (writeOffset_cases off v s).imp (fun ⟨hb, e⟩ => ⟨hb, v, e⟩) .inr
  | hostStore a v => exact .inr (.inr (hostStore_beside h))
  | hostLoad a => exact .inr (.inr (hostLoad_beside h))
  | hostClean a => cases h; exact .inr (.inr (hostClean_beside a s))
  | hostInvalidate a => cases h; exact .inr (.inr (.changes ..))
  | busWrite a v => exact .inr (.inr (busWrite_beside h))
  | reset => exact absurd rfl hreset
  | engine n => exact absurd rfl (hturn n)

end Agents

/-! ### Reset -/

/-- Settles O55: the event is `resetEngine`, and what it gives the engine is what the machine's first state has. -/
theorem resetAbandonsAndClears : Obligations.ResetAbandonsAndClears := by
  unfold Obligations.ResetAbandonsAndClears
  intro s rest h
  obtain ⟨hkey, -, -, -, -, -, -, -, -, hctrl, hstatus, -⟩ := resetStateHasResetValues
  exact ⟨resetEngine { s with inputs := rest }, by rw [step_event h, happen], hkey, rfl, rfl, rfl, rfl, rfl, rfl, rfl, rfl, rfl,
    rfl, rfl, rfl, rfl, rfl, rfl, rfl, hctrl, hstatus, rfl, rfl, rfl⟩

/-! ### The key -/

/-- `u` has the key of `s`. -/
abbrev HasKey (s u : State) : Prop := u.key = s.key

/-- How the command `i` changes the key: CLEAR, or a KEY_LOAD that ends without an error, in the step that completes (R242; log 32). -/
def ChangesKey (i : Instr) (s t : State) : Prop :=
  (i = .clear ∧ t.busy = false) ∨ (i = .keyLoad ∧ t.busy = false ∧ t.keyValid = true ∧ t.err = s.err)

/-- The key is as it was, or the command `i` has changed it. -/
abbrev KeyKeptOrChanged (i : Instr) (s t : State) : Prop := HasKey s t ∨ ChangesKey i s t

section Key

variable {s t : State}

theorem GathersKey.hasKey {u : State} (hu : GathersKey s u) : HasKey s u := by rw [HasKey, hu]

/-- KEY_LOAD changes the key in the step that commits it (R110, R111). -/
theorem keyLoadFor_key {n : Nat} (h : keyLoadFor n s = .next t) : KeyKeptOrChanged .keyLoad s t := by
  obtain ⟨u, hu, rfl | ⟨r, rfl⟩ | rfl⟩ := keyLoadFor_inversion h
  · exact .inl hu.hasKey
  · exact .inl hu.hasKey
  · exact .inr (.inr ⟨rfl, rfl, rfl, hu.err_eq⟩)

/-- A single-block command leaves the key alone. -/
theorem blockFor_hasKey (d : Dir) (n : Nat) (s : State) : Reaches (HasKey s) (blockFor d n s) :=
  validated_reaches (fun _ => rfl) (workFor_reaches (commit := id) (s := deriveTs s)
    (fun _ hu => dataAccess_leaves (fun _ => hu) (fun _ _ _ _ => hu) (fun _ _ _ _ => hu)) (fun _ hu => hu) n _ rfl)

theorem chainCryptFor_hasKey (n : Nat) (s : State) : Reaches (HasKey s) (chainCryptFor n s) :=
  validated_reaches (fun _ => rfl) (workFor_reaches (commit := id)
    (fun _ hu => dataAccess_leaves (fun _ => hu) (fun _ _ _ _ => hu) (fun _ _ _ _ => hu)) (fun _ hu => hu) n _ rfl)

theorem chainInit_hasKey (d : Dir) (s : State) : Reaches (HasKey s) (chainInit d s) := by
  obtain ⟨-, e⟩ | ⟨-, e⟩ := chainInit_cases d s <;> rw [e, reaches_next] <;> rfl

theorem exec_key {i : Instr} (h : exec i s = .next t) : KeyKeptOrChanged i s t := by
  cases i with
  | keyLoad => exact keyLoadFor_key h
  | blockEnc => exact .inl (blockFor_hasKey .enc _ s t h)
  | blockDec => exact .inl (blockFor_hasKey .dec _ s t h)
  | chainInitEnc => exact .inl (chainInit_hasKey .enc s t h)
  | chainInitDec => exact .inl (chainInit_hasKey .dec s t h)
  | chainCrypt => exact .inl (chainCryptFor_hasKey _ s t h)
  | clear => cases h; exact .inr (.inl ⟨rfl, rfl⟩)
  | nop | illegalOpc08 | illegalOpc10 | illegalOpc20 | illegalOpc40 | illegalOpc80 | illegalRsv => cases h; exact .inl rfl

theorem unlessZero_key {i : Instr} {n : Nat} (h : unlessZero n (exec i s) s = .next t) : KeyKeptOrChanged i s t := by
  obtain e | e := unlessZero_cases n (exec i s) s <;> rw [e] at h
  · cases h; exact .inl rfl
  · exact exec_key h

theorem execFor_key {i : Instr} {n : Nat} (h : execFor n i s = .next t) : KeyKeptOrChanged i s t := by
  cases i with
  | keyLoad => exact keyLoadFor_key h
  | blockEnc => exact .inl (blockFor_hasKey .enc n s t h)
  | blockDec => exact .inl (blockFor_hasKey .dec n s t h)
  | chainCrypt => exact .inl (chainCryptFor_hasKey n s t h)
  | nop | clear | chainInitEnc | chainInitDec | illegalOpc08 | illegalOpc10 | illegalOpc20 | illegalOpc40 | illegalOpc80
  | illegalRsv => exact unlessZero_key h

/-- The key is as it was, or the running command has changed it: what anything but a reset may do to it (R226, R242). -/
abbrev KeyKeptOrByCommand (s t : State) : Prop := HasKey s t ∨ (s.busy = true ∧ ChangesKey (fetch s) s t)

theorem engineTurn_key {n : Nat} (h : engineTurn n s = .next t) : KeyKeptOrByCommand s t := by
  cases hb : s.busy with
  | true => rw [engineTurn_busy n hb] at h; exact (execFor_key h).imp_right fun hkey => ⟨hb, hkey⟩
  | false => rw [engineTurn_of_not_busy n hb] at h; cases h; exact .inl rfl

theorem engineAlone_key (h : engineAlone s = .next t) : KeyKeptOrByCommand s t := by
  cases hb : s.busy with
  | true => rw [engineAlone_busy hb] at h; exact (exec_key h).imp_right fun hkey => ⟨hb, hkey⟩
  | false => rw [engineAlone_of_not_busy hb] at h; cases h; exact .inl rfl

theorem Beside.hasKey (h : Beside s t) : HasKey s t := by cases h; rfl

theorem happen_key {e : Event} (hreset : e ≠ .reset) (h : happen e s = .next t) : KeyKeptOrByCommand s t := by
  by_cases hturn : ∃ n, e = .engine n
  · obtain ⟨n, rfl⟩ := hturn
    exact engineTurn_key h
  · obtain ⟨-, w, rfl⟩ | ⟨-, -, -, rfl⟩ | hbeside := happen_cases hreset (not_exists.1 hturn) h
    · exact .inl rfl
    · exact .inl rfl
    · exact .inl hbeside.hasKey

theorem step_key (h : step s = .next t) : s.inputs.head? = some .reset ∨ KeyKeptOrByCommand s t := by
  cases hi : s.inputs with
  | nil => rw [step_alone hi] at h; exact .inr (engineAlone_key h)
  | cons e rest =>
    rw [step_event hi] at h
    by_cases hreset : e = .reset
    · exact .inl (congrArg some hreset)
    · exact .inr (happen_key (s := { s with inputs := rest }) hreset h)

end Key

/-- Settles O57, from what a step may do to the key. -/
theorem keyChangesOnlyByLoadClearReset : Obligations.KeyChangesOnlyByLoadClearReset := by
  unfold Obligations.KeyChangesOnlyByLoadClearReset
  intro s t h hne
  obtain hreset | hkept | ⟨hb, hclear | hload⟩ := step_key h
  · exact .inl hreset
  · exact absurd hkept hne
  · exact .inr (.inl ⟨hb, hclear⟩)
  · exact .inr (.inr ⟨hb, hload⟩)

end Sys2Proof.Proofs
end

section
/-! PROOFS. A command that no agent disturbs (spec 70_reset_and_hazards.md R250 to R252; 10_state.md R44): two runs of it from states
that agree in the engine's own parts and in the bytes of its buffers go in lockstep, access by access. -/

namespace Sys2Proof.Proofs

open Sys2Proof.Machine Sys2Proof.Safety

/-! ### STATUS.NX does not reach the data -/

section Nx

variable (c : Setup)

theorem extract_any_nx (alpha : F64) (k : Fin 4) (d : Nat) : ∃ b d', ∀ nx, ∃ nx', extract c alpha k nx d = (b, nx', d') := by
  cases hu : trunc64 (fMul alpha c.numerics.extScale) with
  | none => exact ⟨_, _, fun nx => ⟨_, extract_of_out_of_range hu k nx d⟩⟩
  | some u => exact ⟨_, _, fun nx => ⟨_, extract_of_converts hu k nx d⟩⟩

theorem extractAll_any_nx (x : Chaotic) (d : Nat) : ∃ e d', ∀ nx, ∃ nx', extractAll c ⟨x, nx, d⟩ = (e, nx', d') := by
  obtain ⟨b0, d0, h0⟩ := extract_any_nx c x.alpha.ch0 x.tap.ch0 d
  obtain ⟨b1, d1, h1⟩ := extract_any_nx c x.alpha.ch1 x.tap.ch1 d0
  obtain ⟨b2, d2, h2⟩ := extract_any_nx c x.alpha.ch2 x.tap.ch2 d1
  refine ⟨⟨b0, b1, b2⟩, d2, fun nx => ?_⟩
  obtain ⟨nx0, e0⟩ := h0 nx
  obtain ⟨nx1, e1⟩ := h1 nx0
  obtain ⟨nx2, e2⟩ := h2 nx1
  exact ⟨nx2, extractAll_of_extractions e0 e1 e2⟩

/-- A digit and a cycle depend on NX in nothing but NX: with NX set, too, the same draws are made (log 10). -/
theorem cycle_congr_of_nx (x : Chaotic) (nx nx' : Bool) (d : Nat) :
    digit c ⟨x, nx', d⟩ = digit c ⟨x, nx, d⟩ ∧ (updateCycle c ⟨x, nx', d⟩).chaos = (updateCycle c ⟨x, nx, d⟩).chaos ∧
      (updateCycle c ⟨x, nx', d⟩).draws = (updateCycle c ⟨x, nx, d⟩).draws := by
  obtain ⟨e, d', h⟩ := extractAll_any_nx c x d
  obtain ⟨_, e1⟩ := h nx
  obtain ⟨_, e2⟩ := h nx'
  rw [digit_of_extractAll e1, digit_of_extractAll e2, updateCycle_of_extractAll e1, updateCycle_of_extractAll e2]
  exact ⟨rfl, rfl, rfl⟩

end Nx

/-! ### States that agree -/

/-- The address is one of a buffer's, of those listed by base and length. -/
def InBuffers (bufs : List (Nat × Nat)) (a : Nat) : Prop := ∃ b ∈ bufs, inBuffer a b.1 b.2 = true

/-- Two memories in canonical form with the same bytes in the buffers. -/
structure SameBytes (bufs : List (Nat × Nat)) (m m' : Memory) : Prop where
  wf : m.wf = true
  wf' : m'.wf = true
  read : ∀ a, InBuffers bufs a → m'.read a = m.read a

/-- Two states that agree in the engine's own parts and in the bytes of the buffers. -/
structure Alike (bufs : List (Nat × Nat)) (u v : State) : Prop where
  beside : Beside u v
  bytes : SameBytes bufs u.mem v.mem

/-- An update of the engine's own parts of the state that sees nothing else. -/
structure EngineOnly (f : State → State) : Prop where
  beside : ∀ u v, Beside u v → Beside (f u) (f v)
  mem : ∀ u, (f u).mem = u.mem

section Agree

variable {bufs : List (Nat × Nat)} {u v : State} {m m' : Memory} {f : State → State}

/-- The same byte written to both. -/
theorem SameBytes.write (h : SameBytes bufs m m') (a : Nat) (b : Byte) : SameBytes bufs (m.write a b) (m'.write a b) where
  wf := Memory.wf_write a b h.wf
  wf' := Memory.wf_write a b h.wf'
  read x hx := by
    by_cases e : x = a
    · rw [e, Memory.read_write_same a b h.wf, Memory.read_write_same a b h.wf']
    · rw [Memory.read_write_other _ b e, Memory.read_write_other _ b e, h.read x hx]

/-- A byte written to one of them outside the buffers. -/
theorem SameBytes.write_outside (h : SameBytes bufs m m') {a : Nat} (b : Byte) (ha : ¬InBuffers bufs a) :
    SameBytes bufs m (m'.write a b) where
  wf := h.wf
  wf' := Memory.wf_write a b h.wf'
  read x hx := by
    have hne : x ≠ a := fun e => ha (e ▸ hx)
    rw [Memory.read_write_other _ b hne, h.read x hx]

theorem sameBytes_refl (h : m.wf = true) : SameBytes bufs m m := ⟨h, h, fun _ _ => rfl⟩

theorem EngineOnly.alike (hf : EngineOnly f) (h : Alike bufs u v) : Alike bufs (f u) (f v) :=
  ⟨hf.beside u v h.beside, by rw [hf.mem, hf.mem]; exact h.bytes⟩

theorem Beside.busy (h : Beside u v) : v.busy = u.busy := by cases h; rfl

theorem Beside.setup (h : Beside u v) : v.setup = u.setup := by cases h; rfl

theorem Beside.latch (h : Beside u v) : v.latch = u.latch := by cases h; rfl

theorem Beside.idx (h : Beside u v) : v.idx = u.idx := by cases h; rfl

theorem Beside.held (h : Beside u v) : v.held = u.held := by cases h; rfl

theorem Beside.kb (h : Beside u v) : v.kb = u.kb := by cases h; rfl

theorem Beside.draws (h : Beside u v) : v.draws = u.draws := by cases h; rfl

theorem Beside.keyValid (h : Beside u v) : v.keyValid = u.keyValid := by cases h; rfl

theorem Beside.fetch (h : Beside u v) : fetch v = fetch u := by cases h; rfl

theorem engineOnly_id : EngineOnly id := ⟨fun _ _ h => h, fun _ => rfl⟩

theorem engineOnly_complete : EngineOnly complete := ⟨fun _ _ h => by cases h; exact .changes .., fun _ => rfl⟩

theorem engineOnly_raiseError (r : Report) : EngineOnly (raiseError r) := ⟨fun _ _ h => by cases h; exact .changes .., fun _ => rfl⟩

theorem engineOnly_raiseIllegal : EngineOnly raiseIllegal := ⟨fun _ _ h => by cases h; exact .changes .., fun _ => rfl⟩

theorem engineOnly_loseChain : EngineOnly loseChain := ⟨fun _ _ h => by cases h; exact .changes .., fun _ => rfl⟩

theorem engineOnly_deriveTs : EngineOnly deriveTs := ⟨fun _ _ h => by cases h; exact .changes .., fun _ => rfl⟩

theorem engineOnly_commitKey : EngineOnly commitKey := ⟨fun _ _ h => by cases h; exact .changes .., fun _ => rfl⟩

theorem engineOnly_clear : EngineOnly clearKeyAndChain := ⟨fun _ _ h => by cases h; exact .changes .., fun _ => rfl⟩

end Agree

/-! ### Accesses in lockstep -/

/-- Two accesses, or two runs of them, end in the same way, and in states that `R` relates. -/
inductive Lockstep (R : State → State → Prop) : Work → Work → Prop where
  | going {u v : State} (h : R u v) : Lockstep R (.going u) (.going v)
  | ended {u v : State} (h : R u v) : Lockstep R (.ended u) (.ended v)
  | stuck (f : Fault) : Lockstep R (.stuck f) (.stuck f)

/-- The bus answers an access with an error, with data, or never (R78, R256). -/
theorem answer_cases (p : Platform) (errs : List Range) (a : Nat) :
    inRanges errs a = true ∨ (inRanges errs a = false ∧ holdsMemory p a = true) ∨
      (holdsMemory p a = false ∧ inRanges errs a = false) := by
  cases inRanges errs a <;> cases holdsMemory p a <;> simp

/-- A write that the bus never answers. -/
theorem writeAccess_unanswered {dir : Dir} {c : Chaotic} {put : Chaotic → State → State} {lose : State → State} {b : Byte}
    {s : State} (h : WriteUnanswered s.setup.platform (s.latch.dstAddr.toNat + s.idx.toNat)) :
    writeAccess dir c put lose b s = .stuck .busNoAnswer := by
  simp [writeAccess, memWrite, h]

section Accesses

variable {bufs : List (Nat × Nat)} {u v : State} {dir : Dir} {c : Chaotic} {put : Chaotic → State → State} {lose : State → State}

theorem memRead_alike (h : Alike bufs u v) {a : Nat} (ha : InBuffers bufs a) : memRead v a = memRead u a := by
  rw [memRead, memRead, h.beside.setup, h.bytes.read a ha]

theorem keyByte_lockstep (h : Alike bufs u v) (ha : InBuffers bufs (u.latch.keyAddr.toNat + u.idx.toNat)) :
    Lockstep (Alike bufs) (keyByte u) (keyByte v) := by
  simp only [keyByte, h.beside.latch, h.beside.idx, h.beside.kb, memRead_alike h ha]
  cases memRead u (u.latch.keyAddr.toNat + u.idx.toNat) with
  | noAnswer => exact .stuck _
  | busError => exact .ended ((engineOnly_raiseError _).alike h)
  | data b => exact .going ⟨by cases h.beside; exact .changes .., h.bytes⟩

theorem readAccess_lockstep (hlose : EngineOnly lose) (h : Alike bufs u v)
    (ha : InBuffers bufs (u.latch.srcAddr.toNat + u.idx.toNat)) :
    Lockstep (Alike bufs) (readAccess lose u) (readAccess lose v) := by
  simp only [readAccess, h.beside.latch, h.beside.idx, memRead_alike h ha]
  cases memRead u (u.latch.srcAddr.toNat + u.idx.toNat) with
  | noAnswer => exact .stuck _
  | busError => exact .ended ((engineOnly_raiseError _).alike (hlose.alike h))
  | data b => exact .going ⟨by cases h.beside; exact .changes .., h.bytes⟩

theorem writeAccess_lockstep (hput : ∀ x, EngineOnly (put x)) (hlose : EngineOnly lose) (b : Byte) (h : Alike bufs u v) :
    Lockstep (Alike bufs) (writeAccess dir c put lose b u) (writeAccess dir c put lose b v) := by
  obtain ⟨hdigit, hchaos, hdraws⟩ := cycle_congr_of_nx u.setup c u.nx v.nx u.draws
  have hsetup := h.beside.setup
  have hlatch := h.beside.latch
  have hidx := h.beside.idx
  obtain he | hd | hn := answer_cases u.setup.platform u.setup.platform.busErrWrite (u.latch.dstAddr.toNat + u.idx.toNat)
  · rw [writeAccess_error he, writeAccess_error (s := v) (by rw [hsetup, hlatch, hidx]; exact he)]
    rw [hsetup, hlatch, hidx, h.beside.draws, hdraws]
    refine .ended ((engineOnly_raiseError _).alike (hlose.alike ⟨?_, h.bytes⟩))
    cases h.beside
    exact .changes ..
  · rw [writeAccess_going hd, writeAccess_going (s := v) (by rw [hsetup, hlatch, hidx]; exact hd)]
    rw [hsetup, hlatch, hidx, h.beside.draws, hdraws, hchaos, hdigit]
    refine .going ((hput _).alike ⟨?_, h.bytes.write _ _⟩)
    cases h.beside
    exact .changes ..
  · rw [writeAccess_unanswered hn, writeAccess_unanswered (s := v) (by rw [hsetup, hlatch, hidx]; exact hn)]
    exact .stuck _

theorem dataAccess_lockstep (hput : ∀ x, EngineOnly (put x)) (hlose : EngineOnly lose) (h : Alike bufs u v)
    (ha : InBuffers bufs (u.latch.srcAddr.toNat + u.idx.toNat)) :
    Lockstep (Alike bufs) (dataAccess dir c put lose u) (dataAccess dir c put lose v) := by
  cases hh : u.held with
  | none => rw [dataAccess_read hh, dataAccess_read (h.beside.held.trans hh)]; exact readAccess_lockstep hlose h ha
  | some b => rw [dataAccess_write hh, dataAccess_write (h.beside.held.trans hh)]; exact writeAccess_lockstep hput hlose b h

end Accesses

/-! ### Commands in lockstep -/

/-- Where the first answer has a next state the second has one that is like it. -/
def Follows (bufs : List (Nat × Nat)) (a a' : Answer) : Prop := Reaches (fun t => ∃ t', a' = .next t' ∧ Alike bufs t t') a

theorem follows_next {bufs : List (Nat × Nat)} {f : State → State} {u v : State} (hf : EngineOnly f) (h : Alike bufs u v) :
    Follows bufs (.next (f u)) (.next (f v)) :=
  reaches_next.2 ⟨_, rfl, hf.alike h⟩

/-- What makes a command that reaches memory see nothing of the other agents but the bytes of its buffers. -/
structure MemoryCommand.Undisturbed (c : MemoryCommand) : Prop where
  check : ∀ u v, Beside u v → c.check v = c.check u
  buffers : ∀ u v, Beside u v → c.buffers v = c.buffers u
  left : ∀ u v, Beside u v → c.left v = c.left u
  start : EngineOnly c.start
  access : ∀ m u v, c.left u = m + 1 → Alike (c.buffers u) u v → Lockstep (Alike (c.buffers u)) (c.access u) (c.access v)
  commit : EngineOnly c.commit

section Undisturbed

variable {c : MemoryCommand} {s s' : State}

/-- An access that goes on leaves the command running, with one access less to make. -/
theorem MemoryCommand.Resumable.continues_access (hr : c.Resumable) {m : Nat} {u v : State} (hu : c.Continues s (m + 1) u)
    (h : c.access u = .going v) : c.Continues s m v :=
  hu.trans (hr.goes m u v hu.left hu.start hu.busy h)

/-- Runs of accesses go in lockstep. -/
theorem MemoryCommand.Undisturbed.run_lockstep (hc : c.Undisturbed) (hr : c.Resumable) (n : Nat) {u v : State}
    (hu : c.Continues s n u) (h : Alike (c.buffers s) u v) :
    Lockstep (Alike (c.buffers s)) (runAccesses c.access n u) (runAccesses c.access n v) := by
  induction n generalizing u v with
  | zero => exact .going h
  | succ n ih =>
    have hstep := hc.access n u v hu.left (hu.buffers ▸ h)
    rw [hu.buffers] at hstep
    generalize hwu : c.access u = wu, hwv : c.access v = wv at hstep
    cases hstep with
    | going h' =>
      rw [runAccesses_succ_going n hwu, runAccesses_succ_going n hwv]
      exact ih (hr.continues_access hu hwu) h'
    | ended h' => rw [runAccesses_succ_ended n hwu, runAccesses_succ_ended n hwv]; exact .ended h'
    | stuck f => rw [runAccesses_succ_stuck n hwu, runAccesses_succ_stuck n hwv]; exact .stuck f

theorem workFor_follows {bufs : List (Nat × Nat)} {access : State → Work} {commit : State → State} {n : Nat} {u v : State}
    (hcommit : EngineOnly commit) (h : Lockstep (Alike bufs) (runAccesses access n u) (runAccesses access n v)) :
    Follows bufs (workFor access commit (n + 1) n u) (workFor access commit (n + 1) n v) := by
  rw [workFor_whole, workFor_whole]
  generalize runAccesses access n u = wu, runAccesses access n v = wv at h
  cases h with
  | going h => exact follows_next engineOnly_complete (hcommit.alike h)
  | ended h => exact follows_next engineOnly_id h
  | stuck f => exact reaches_fault

/-- A command run from two states that are alike ends in states that are alike. -/
theorem MemoryCommand.Undisturbed.whole_follows (hc : c.Undisturbed) (hr : c.Resumable) (hb : s.busy = true)
    (h : Alike (c.buffers s) s s') : Follows (c.buffers s) (c.whole s) (c.whole s') := by
  rw [whole, whole, turn, turn, hc.check s s' h.beside, hc.buffers s s' h.beside, hc.left s s' h.beside]
  obtain ⟨r, hcheck, e⟩ | ⟨-, -, e⟩ | ⟨hcheck, hside, e⟩ := validated_cases (c.check s) (c.buffers s) s
    (workFor c.access c.commit (c.left s + 1) (c.left s) (c.start s)) <;> rw [e]
  · rw [validated_fails hcheck]
    exact follows_next (engineOnly_raiseError r) h
  · exact reaches_fault
  · rw [validated_passes hcheck (h.beside.setup ▸ hside)]
    exact workFor_follows hc.commit (hc.run_lockstep hr _ (hr.starts s hb) (hc.start.alike h))

end Undisturbed

/-! ### Each command -/

theorem inBuffer_add {a k n : Nat} (hk : k < n) : inBuffer (a + k) a n = true := decide_eq_true ⟨Nat.le_add_right a k, by omega⟩

/-- A data command that has an access left is at a byte of its buffers. -/
theorem idx_lt_of_accessesLeft {n m : Nat} {s : State} (h : accessesLeft n s = m + 1) : s.idx.toNat < n := by
  rw [accessesLeft] at h
  omega

theorem keyLoadCommand_undisturbed : keyLoadCommand.Undisturbed where
  check _ _ h := by cases h; rfl
  buffers _ _ h := by cases h; rfl
  left _ _ h := by cases h; rfl
  start := engineOnly_id
  access m u v hl h :=
    have hlt : u.idx.toNat < 18 := Nat.lt_of_sub_eq_succ hl
    keyByte_lockstep h ⟨_, List.mem_singleton_self _, inBuffer_add hlt⟩
  commit := engineOnly_commitKey

theorem blockCommand_undisturbed (d : Dir) : (blockCommand d).Undisturbed where
  check _ _ h := by cases h; rfl
  buffers _ _ h := by cases h; rfl
  left _ _ h := by cases h; rfl
  start := engineOnly_deriveTs
  access m u v hl h := by
    have hts : transient v = transient u := by cases h.beside; rfl
    simp only [blockCommand, blockAccess, hts]
    exact dataAccess_lockstep (fun x => ⟨fun _ _ h => by cases h; exact .changes .., fun _ => rfl⟩) engineOnly_id h
      ⟨_, List.mem_cons_self, inBuffer_add (idx_lt_of_accessesLeft hl)⟩
  commit := engineOnly_id

theorem chainCryptCommand_undisturbed : chainCryptCommand.Undisturbed where
  check _ _ h := by cases h; rfl
  buffers _ _ h := by cases h; rfl
  left _ _ h := by cases h; rfl
  start := engineOnly_id
  access m u v hl h := by
    have hcs : v.cs = u.cs := by cases h.beside; rfl
    have hdir : v.chainDir = u.chainDir := by cases h.beside; rfl
    simp only [chainCryptCommand, chainAccess, hcs, hdir]
    exact dataAccess_lockstep (fun x => ⟨fun _ _ h => by cases h; exact .changes .., fun _ => rfl⟩) engineOnly_loseChain h
      ⟨_, List.mem_cons_self, inBuffer_add (idx_lt_of_accessesLeft hl)⟩
  commit := engineOnly_id

/-- The buffers of the command `i`, by what it asks of the platform. -/
abbrev buffersOf (i : Instr) (s : State) : List (Nat × Nat) := (demand i s).reads ++ (demand i s).writes

section Commands

variable {s s' : State}

theorem chainInit_follows (d : Dir) {bufs : List (Nat × Nat)} (h : Alike bufs s s') :
    Follows bufs (chainInit d s) (chainInit d s') := by
  have hkey := h.beside.keyValid
  obtain ⟨hk, e⟩ | ⟨hk, e⟩ := chainInit_cases d s <;> obtain ⟨hk', e'⟩ | ⟨hk', e'⟩ := chainInit_cases d s' <;> rw [e, e']
  · exact follows_next (engineOnly_raiseError _) h
  · cases hk'.symm.trans (hkey.trans hk)
  · cases hk'.symm.trans (hkey.trans hk)
  · exact follows_next engineOnly_complete ⟨by cases h.beside; exact .changes .., h.bytes⟩

/-- Every command, run from two states that are alike, ends in states that are alike. -/
theorem exec_follows {i : Instr} (hb : s.busy = true) (h : Alike (buffersOf i s) s s') :
    Follows (buffersOf i s) (exec i s) (exec i s') := by
  cases i with
  | keyLoad => exact keyLoadCommand_undisturbed.whole_follows keyLoadCommand_resumable hb h
  | blockEnc => exact (blockCommand_undisturbed .enc).whole_follows (blockCommand_resumable .enc) hb h
  | blockDec => exact (blockCommand_undisturbed .dec).whole_follows (blockCommand_resumable .dec) hb h
  | chainCrypt => exact chainCryptCommand_undisturbed.whole_follows chainCryptCommand_resumable hb h
  | chainInitEnc => exact chainInit_follows .enc h
  | chainInitDec => exact chainInit_follows .dec h
  | nop => exact follows_next engineOnly_complete h
  | clear => exact follows_next engineOnly_complete (engineOnly_clear.alike h)
  | illegalOpc08 | illegalOpc10 | illegalOpc20 | illegalOpc40 | illegalOpc80 | illegalRsv =>
    exact follows_next engineOnly_raiseIllegal h

/-! ### Dutiful events -/

/-- The buffers of a command are those that the host's duties speak of (R61, R251). -/
theorem mem_buffersOf {i : Instr} {b : Nat × Nat} (h : b ∈ buffersOf i s) :
    b = (keyBase s, if i = .keyLoad then 18 else 0) ∨ b = (src s, dataBytes i s) ∨ b = (dst s, dataBytes i s) := by
  cases i with
  | keyLoad => exact .inl (List.mem_singleton.1 h)
  | blockEnc | blockDec | chainCrypt => exact .inr (List.mem_pair.1 h)
  | _ => cases h

/-- What the host's duties leave untouched holds no address of the running command's buffers (R251). -/
theorem not_inBuffers_of_untouched {a : Word} (h : dutiful.untouched s a = true) : ¬InBuffers (buffersOf (fetch s) s) a.toNat := by
  simp only [dutiful.untouched, Bool.and_eq_true, Bool.not_eq_true'] at h
  obtain ⟨⟨hkey, hsrc⟩, hdst⟩ := h
  rintro ⟨b, hb, ha⟩
  obtain rfl | rfl | rfl := mem_buffersOf hb
  · cases hkey.symm.trans ha
  · cases hsrc.symm.trans ha
  · cases hdst.symm.trans ha

/-- Every byte of the destination is one of the buffers' (R61). -/
theorem inBuffers_of_destination {i : Instr} {a : Nat} (h : inBuffer a (dst s) (dataBytes i s) = true) :
    InBuffers (buffersOf i s) a := by
  have hempty : ¬inBuffer a (dst s) 0 = true := by simp [inBuffer]
  cases i with
  | blockEnc | blockDec | chainCrypt => exact ⟨_, List.mem_cons_of_mem _ (List.mem_singleton_self _), h⟩
  | _ => exact absurd h hempty

/-- A dutiful event writes no byte of memory, or one that it may (R251). -/
theorem happen_dutiful_mem {e : Event} (hb : s.busy = true) (hd : dutiful s e = true) (hreset : e ≠ .reset)
    (hturn : ∀ n, e ≠ .engine n) (h : happen e s = .next s') :
    s'.mem = s.mem ∨ ∃ (a : Word) (v : Byte), dutiful.untouched s a = true ∧ s'.mem = s.mem.write a.toNat v := by
  have allowed {a : Word} (ha : (!s.busy || dutiful.untouched s a) = true) : dutiful.untouched s a = true := by simpa [hb] using ha
  cases e with
  | regRead w off => exact .inl (regRead_mem h)
  | regWrite w off v => exact .inl (regWrite_mem h)
  | hostStore a v =>
    cases hc : s.setup.platform.memCoherent with
    | false => exact .inl (hostStore_mem hc h)
    | true =>
      cases hp : plainMemory s.setup.platform a.toNat with
      | false => cases (access_refused hp).1.symm.trans h
      | true => cases (hostStore_coherent hp hc).symm.trans h; exact .inr ⟨a, v, allowed hd, rfl⟩
  | hostLoad a => exact .inl (hostLoad_mem h)
  | hostClean a =>
    cases h
    exact (hostClean_mem a s).imp_right fun ⟨v, e⟩ => ⟨a, v, allowed hd, e⟩
  | hostInvalidate a => cases h; exact .inl rfl
  | busWrite a v =>
    cases hp : plainMemory s.setup.platform a.toNat with
    | false => cases (access_refused hp).2.2.symm.trans h
    | true => cases (busWrite_plain hp).symm.trans h; exact .inr ⟨a, v, allowed hd, rfl⟩
  | reset => exact absurd rfl hreset
  | engine n => exact absurd rfl (hturn n)

/-- A register read that the host may make while a command runs draws nothing (R43, R252). -/
theorem readOffset_dutiful_draws {w : Width} {off : BitVec 8} (hb : s.busy = true) (hd : dutiful s (.regRead w off) = true) :
    (readOffset s off).2 = s.draws := by
  cases hr : regAt off with
  | none => rw [readOffset_reserved hr]
  | some r => rw [readOffset_plain hr (by simpa [dutiful, hb, hr] using hd)]

/-- A dutiful event leaves a state that is like the one it found. -/
theorem happen_dutiful_alike {e : Event} (hwf : s.mem.wf = true) (hb : s.busy = true) (hd : dutiful s e = true)
    (hreset : e ≠ .reset) (hturn : ∀ n, e ≠ .engine n) (h : happen e s = .next s') : Alike (buffersOf (fetch s) s) s s' where
  beside := by
    obtain ⟨hidle, -⟩ | ⟨w, off, rfl, rfl⟩ | hbeside := happen_cases hreset hturn h
    · cases hidle.symm.trans hb
    · rw [readOffset_dutiful_draws hb hd]; exact .changes ..
    · exact hbeside
  bytes := by
    obtain e | ⟨a, v, ha, e⟩ := happen_dutiful_mem hb hd hreset hturn h <;> rw [e]
    · exact sameBytes_refl hwf
    · exact (sameBytes_refl hwf).write_outside v (not_inBuffers_of_untouched ha)

end Commands

/-- Settles O60: the event leaves a state that is like the one it found, and from there the command runs in lockstep. -/
theorem dutifulHostDoesNotDisturb : Obligations.DutifulHostDoesNotDisturb := by
  unfold Obligations.DutifulHostDoesNotDisturb
  intro s s1 t e hwf hb hd hreset hturn hevent hrun
  have hlike := happen_dutiful_alike hwf hb hd hreset hturn hevent
  obtain ⟨t1, hrun1, hbeside, hbytes⟩ := exec_follows hb hlike t hrun
  have hdone : t1.done = t.done := (exec_done (hlike.beside.busy.trans hb) hrun1).trans (exec_done hb hrun).symm
  refine ⟨t1, by rw [hlike.beside.fetch, hrun1], ?_⟩
  have hdst : ∀ a, inBuffer a (dst s) (dataBytes (fetch s) s) = true → t1.mem.read a = t.mem.read a :=
    fun a ha => hbytes.read a (inBuffers_of_destination ha)
  cases hbeside
  exact ⟨rfl, rfl, rfl, rfl, rfl, rfl, rfl, hdone, rfl, rfl, rfl, hdst⟩

end Sys2Proof.Proofs
end

section
/-! PROOFS. Progress (spec 70_reset_and_hazards.md R256; 20_memory.md R69, R78): a command left alone completes where the bus answers,
has no step where an accessed byte has side effects, and hangs at an access that the bus never answers. -/

namespace Sys2Proof.Proofs

open Sys2Proof.Machine Sys2Proof.Safety

/-! ### Side effects -/

/-- A range and a buffer meet in a byte of the buffer. -/
theorem rangeMeets_iff {r : Range} {a n : Nat} :
    rangeMeets r a n = true ↔ ∃ k, k < n ∧ r.base ≤ a + k ∧ a + k < r.base + r.size := by
  simp only [rangeMeets, decide_eq_true_eq]
  constructor
  · rintro ⟨hn, hsize, hlow, hhigh⟩
    exact ⟨r.base - a, by omega, by omega, by omega⟩
  · rintro ⟨k, hk, hlow, hhigh⟩
    exact ⟨by omega, by omega, by omega, by omega⟩

/-- A buffer has side effects when one of its bytes does (R69; log 17). -/
theorem hasSideEffects_iff {p : Platform} {a n : Nat} :
    hasSideEffects p a n = true ↔ ∃ k, k < n ∧ sideEffectAt p (a + k) = true := by
  simp only [hasSideEffects, sideEffectAt, window, Bool.or_eq_true, List.any_eq_true, rangeMeets_iff, decide_eq_true_eq]
  constructor
  · rintro (⟨k, hk, hw⟩ | ⟨r, hr, k, hk, hd⟩)
    · exact ⟨k, hk, .inl hw⟩
    · exact ⟨k, hk, .inr ⟨r, hr, hd⟩⟩
  · rintro ⟨k, hk, hw | ⟨r, hr, hd⟩⟩
    · exact .inl ⟨k, hk, hw⟩
    · exact .inr ⟨r, hr, k, hk, hd⟩

section SideEffects

variable {s : State} {i : Instr}

theorem no_sideEffects_of_serves (h : PlatformServes i s) (hcheck : (demand i s).check = none) :
    ∀ b ∈ buffersOf i s, hasSideEffects s.setup.platform b.1 b.2 = false := by
  obtain ⟨hside, -⟩ := h hcheck
  intro b hb
  rw [← Bool.not_eq_true, hasSideEffects_iff]
  rintro ⟨k, hk, he⟩
  cases (hside b hb k hk).symm.trans he

theorem validated_sideEffects {check : Option Report} {buffers : List (Nat × Nat)} {work : Answer} {b : Nat × Nat}
    (hcheck : check = none) (hb : b ∈ buffers) (he : hasSideEffects s.setup.platform b.1 b.2 = true) :
    validated check buffers s work = .fault .sideEffectBuffer := by
  obtain ⟨r, hr, -⟩ | ⟨-, -, e⟩ | ⟨-, hside, -⟩ := validated_cases check buffers s work
  · cases hcheck.symm.trans hr
  · exact e
  · cases (hside b hb).symm.trans he

/-- A command whose checks pass has no step if a byte it accesses has side effects (R69). -/
theorem exec_sideEffects {b : Nat × Nat} (hcheck : (demand i s).check = none) (hb : b ∈ buffersOf i s)
    (he : hasSideEffects s.setup.platform b.1 b.2 = true) : exec i s = .fault .sideEffectBuffer := by
  cases i with
  | keyLoad | blockEnc | blockDec | chainCrypt => exact validated_sideEffects hcheck hb he
  | _ => cases hb

end SideEffects

/-! ### Completion -/

section Completion

variable {s u : State} {f : Fault}

theorem memRead_noAnswer {a : Nat} (h : memRead u a = .noAnswer) : ReadUnanswered u.setup.platform a := by
  obtain ⟨-, e⟩ | ⟨-, -, e⟩ | ⟨herr, hmem, -⟩ := memRead_cases u a
  · cases e.symm.trans h
  · cases e.symm.trans h
  · exact ⟨hmem, herr⟩

theorem memWrite_noAnswer {a : Nat} {v : Byte} (h : memWrite u a v = .noAnswer) : WriteUnanswered u.setup.platform a := by
  obtain ⟨-, e⟩ | ⟨-, -, e⟩ | ⟨herr, hmem, -⟩ := memWrite_cases u a v
  · cases e.symm.trans h
  · cases e.symm.trans h
  · exact ⟨hmem, herr⟩

/-- An access has no step only where the bus does not answer it (log 16). -/
theorem keyByte_stuck (h : keyByte u = .stuck f) : ReadUnanswered u.setup.platform (keyBase u + u.idx.toNat) := by
  obtain ⟨-, e⟩ | ⟨hr, -⟩ | ⟨b, -, e⟩ := keyByte_cases u
  · cases e.symm.trans h
  · exact memRead_noAnswer hr
  · cases e.symm.trans h

theorem dataAccess_stuck {dir : Dir} {x : Chaotic} {put : Chaotic → State → State} {lose : State → State}
    (h : dataAccess dir x put lose u = .stuck f) :
    ReadUnanswered u.setup.platform (src u + u.idx.toNat) ∨ WriteUnanswered u.setup.platform (dst u + u.idx.toNat) := by
  cases hh : u.held with
  | none =>
    rw [dataAccess_read hh] at h
    obtain ⟨-, e⟩ | ⟨hr, -⟩ | ⟨b, -, e⟩ := readAccess_cases lose u
    · cases e.symm.trans h
    · exact .inl (memRead_noAnswer hr)
    · cases e.symm.trans h
  | some b =>
    rw [dataAccess_write hh] at h
    obtain ⟨-, e⟩ | ⟨hw, -⟩ | ⟨m, -, e⟩ := writeAccess_cases dir x put lose b u
    · cases e.symm.trans h
    · exact .inr (memWrite_noAnswer hw)
    · cases e.symm.trans h

/-- An access of the running command has no step. -/
abbrev MemoryCommand.Sticks (c : MemoryCommand) (s : State) : Prop := ∃ m u f, c.Continues s (m + 1) u ∧ c.access u = .stuck f

/-- A command none of whose accesses has no step, and no byte of whose buffers has side effects, completes. -/
theorem MemoryCommand.Resumable.whole_next {c : MemoryCommand} (hc : c.Resumable) (hb : s.busy = true)
    (hside : c.check s = none → ∀ b ∈ c.buffers s, hasSideEffects s.setup.platform b.1 b.2 = false)
    (hruns : c.check s = none → ¬c.Sticks s) : ∃ t, c.whole s = .next t := by
  rw [whole, turn]
  obtain ⟨r, -, e⟩ | ⟨hcheck, ⟨b, hbuf, he⟩, -⟩ | ⟨hcheck, -, e⟩ := validated_cases (c.check s) (c.buffers s) s
    (workFor c.access c.commit (c.left s + 1) (c.left s) (c.start s))
  · exact ⟨_, e⟩
  · cases (hside hcheck b hbuf).symm.trans he
  · rw [e, workFor_whole]
    cases hr : runAccesses c.access (c.left s) (c.start s) with
    | going t => exact ⟨_, rfl⟩
    | ended t => exact ⟨_, rfl⟩
    | stuck f =>
      obtain ⟨m, u, hu, hstuck⟩ := runAccesses_stuck_induction (P := c.Continues s) (fun _ _ _ => hc.continues_access) _ _ f
        (hc.starts s hb) hr
      exact absurd ⟨m, u, f, hu, hstuck⟩ (hruns hcheck)

/-- The bus answers every read of the buffer, with data or with an error. -/
abbrev ReadsServed (p : Platform) (a n : Nat) : Prop :=
  ∀ k, k < n → holdsMemory p (a + k) = true ∨ inRanges p.busErrRead (a + k) = true

/-- The bus answers every write of the buffer, with data or with an error. -/
abbrev WritesServed (p : Platform) (a n : Nat) : Prop :=
  ∀ k, k < n → holdsMemory p (a + k) = true ∨ inRanges p.busErrWrite (a + k) = true

theorem ReadsServed.not_unanswered {p : Platform} {a n k : Nat} (h : ReadsServed p a n) (hk : k < n) : ¬ReadUnanswered p (a + k) := by
  rintro ⟨hmem, herr⟩
  simpa [hmem, herr] using h k hk

theorem WritesServed.not_unanswered {p : Platform} {a n k : Nat} (h : WritesServed p a n) (hk : k < n) :
    ¬WriteUnanswered p (a + k) := by
  rintro ⟨hmem, herr⟩
  simpa [hmem, herr] using h k hk

theorem keyLoadCommand_not_sticks (h : ReadsServed s.setup.platform (keyBase s) 18) : ¬keyLoadCommand.Sticks s := by
  rintro ⟨m, u, f, hu, hstuck⟩
  have hlt : u.idx.toNat < 18 := Nat.lt_of_sub_eq_succ hu.left
  have hbase : keyBase u = keyBase s := by simpa [keyLoadCommand, keyBase] using hu.buffers
  have hun := keyByte_stuck hstuck
  rw [hu.setup, hbase] at hun
  exact h.not_unanswered hlt hun

/-- A data access of the `n` bytes that start where the command's do has a step. -/
theorem dataAccess_not_stuck {n : Nat} (hreads : ReadsServed s.setup.platform (src s) n)
    (hwrites : WritesServed s.setup.platform (dst s) n) (hsetup : u.setup = s.setup) (hsrc : src u = src s) (hdst : dst u = dst s)
    (hlt : u.idx.toNat < n) {dir : Dir} {x : Chaotic} {put : Chaotic → State → State} {lose : State → State} :
    dataAccess dir x put lose u ≠ .stuck f := by
  intro hstuck
  have hun := dataAccess_stuck hstuck
  rw [hsetup, hsrc, hdst] at hun
  exact hun.elim (hreads.not_unanswered hlt) (hwrites.not_unanswered hlt)

theorem blockCommand_not_sticks (d : Dir) (hreads : ReadsServed s.setup.platform (src s) 16)
    (hwrites : WritesServed s.setup.platform (dst s) 16) : ¬(blockCommand d).Sticks s := by
  rintro ⟨m, u, f, hu, hstuck⟩
  obtain ⟨hsrc, hdst⟩ : src u = src s ∧ dst u = dst s := by simpa [blockCommand, src, dst] using hu.buffers
  exact dataAccess_not_stuck hreads hwrites hu.setup hsrc hdst (idx_lt_of_accessesLeft hu.left) hstuck

theorem chainCryptCommand_not_sticks (hreads : ReadsServed s.setup.platform (src s) s.latch.srcLen.toNat)
    (hwrites : WritesServed s.setup.platform (dst s) s.latch.srcLen.toNat) : ¬chainCryptCommand.Sticks s := by
  rintro ⟨m, u, f, hu, hstuck⟩
  have hbuffers := hu.buffers
  simp only [chainCryptCommand, List.cons.injEq, Prod.mk.injEq, and_true] at hbuffers
  obtain ⟨⟨hsrc, hlen⟩, hdst, -⟩ := hbuffers
  have hlt : u.idx.toNat < s.latch.srcLen.toNat := hlen ▸ idx_lt_of_accessesLeft hu.left
  exact dataAccess_not_stuck hreads hwrites hu.setup hsrc hdst hlt hstuck

theorem chainInit_completes (d : Dir) (s : State) : ∃ t, chainInit d s = .next t := by
  obtain ⟨-, e⟩ | ⟨-, e⟩ := chainInit_cases d s <;> exact ⟨_, e⟩

/-- Every command completes where the platform serves it (R256). -/
theorem exec_completes {i : Instr} (hb : s.busy = true) (h : PlatformServes i s) : ∃ t, exec i s = .next t := by
  have hside := no_sideEffects_of_serves h
  have hreads (hcheck : (demand i s).check = none) : ∀ b ∈ (demand i s).reads, ReadsServed s.setup.platform b.1 b.2 := by
    obtain ⟨-, hreads, -⟩ := h hcheck
    exact hreads
  have hwrites (hcheck : (demand i s).check = none) : ∀ b ∈ (demand i s).writes, WritesServed s.setup.platform b.1 b.2 := by
    obtain ⟨-, -, hwrites⟩ := h hcheck
    exact hwrites
  cases i with
  | keyLoad =>
    exact keyLoadCommand_resumable.whole_next hb hside fun hc => keyLoadCommand_not_sticks (hreads hc _ List.mem_cons_self)
  | blockEnc =>
    exact (blockCommand_resumable .enc).whole_next hb hside fun hc =>
      blockCommand_not_sticks .enc (hreads hc _ List.mem_cons_self) (hwrites hc _ List.mem_cons_self)
  | blockDec =>
    exact (blockCommand_resumable .dec).whole_next hb hside fun hc =>
      blockCommand_not_sticks .dec (hreads hc _ List.mem_cons_self) (hwrites hc _ List.mem_cons_self)
  | chainCrypt =>
    exact chainCryptCommand_resumable.whole_next hb hside fun hc =>
      chainCryptCommand_not_sticks (hreads hc _ List.mem_cons_self) (hwrites hc _ List.mem_cons_self)
  | chainInitEnc => exact chainInit_completes .enc s
  | chainInitDec => exact chainInit_completes .dec s
  | nop | clear | illegalOpc08 | illegalOpc10 | illegalOpc20 | illegalOpc40 | illegalOpc80 | illegalRsv => exact ⟨_, rfl⟩

end Completion

/-! ### Accesses that the bus never answers -/

/-- Work whose first `k` accesses go on and among whose next `j` one has no step has none. -/
theorem workFor_whole_stuck {access : State → Work} {commit : State → State} {k j n : Nat} {s u : State} {f : Fault} (hn : k + j ≤ n)
    (hrun : runAccesses access k s = .going u) (hstuck : runAccesses access j u = .stuck f) :
    workFor access commit (n + 1) n s = .fault f := by
  have hstuck' : runAccesses access (k + j) s = .stuck f := by
    rw [runAccesses_add, hrun]
    exact hstuck
  rw [workFor_whole, runAccesses_stuck_of_le hn hstuck']

section Hangs

variable {s : State} {k n : Nat}

theorem keyByte_unanswered (h : ReadUnanswered s.setup.platform (keyBase s + s.idx.toNat)) : keyByte s = .stuck .busNoAnswer := by
  rw [keyBase] at h
  simp [keyByte, memRead, h]

theorem readAccess_unanswered {lose : State → State} (h : ReadUnanswered s.setup.platform (src s + s.idx.toNat)) :
    readAccess lose s = .stuck .busNoAnswer := by
  rw [src] at h
  simp [readAccess, memRead, h]

/-- The bus never answers the read of the byte at `a`, or it does and never answers the write of the byte at `b`. -/
abbrev ByteHangs (p : Platform) (a b : Nat) : Prop :=
  ReadUnanswered p a ∨ ((inRanges p.busErrRead a = false ∧ holdsMemory p a = true) ∧ WriteUnanswered p b)

/-- A hang at byte `k` is one in that byte's read or write, after bytes that are answered. -/
theorem HangsAt.byteHangs (h : HangsAt s k) : DataAnswered s k ∧ ByteHangs s.setup.platform (src s + k) (dst s + k) := by
  obtain ⟨hA, hun⟩ | ⟨hreads, hwrites, hun⟩ := h
  · exact ⟨hA, .inl hun⟩
  · exact ⟨⟨fun j hj => hreads j (hj.trans k.lt_succ_self), hwrites⟩, .inr ⟨hreads k k.lt_succ_self, hun⟩⟩

/-- One byte of a data command, its read and its write, where the bus does not answer one of them. -/
theorem runAccesses_byteHangs {access : State → Work} {a b : Nat}
    (hdata : ∀ u, ∃ dir c put lose, access u = dataAccess dir c put lose u) (hheld : s.held = none) (ha : src s + s.idx.toNat = a)
    (hb : dst s + s.idx.toNat = b) (h : ByteHangs s.setup.platform a b) :
    ∃ j, j ≤ 2 ∧ runAccesses access j s = .stuck .busNoAnswer := by
  subst ha hb
  obtain ⟨_, _, _, _, hread⟩ := hdata s
  rw [dataAccess_read hheld] at hread
  obtain hun | ⟨hans, hun⟩ := h
  · exact ⟨1, by decide, runAccesses_succ_stuck 0 (hread.trans (readAccess_unanswered hun))⟩
  · refine ⟨2, le_rfl, ?_⟩
    rw [runAccesses_succ_going 1 (hread.trans (readAccess_going hans))]
    obtain ⟨_, _, _, _, hwrite⟩ := hdata { s with held := some (s.mem.read (s.latch.srcAddr.toNat + s.idx.toNat)) }
    exact runAccesses_succ_stuck 0 (hwrite.trans ((dataAccess_write rfl).trans (writeAccess_unanswered hun)))

theorem exec_keyLoad_hangs (hidx : s.idx = 0) (hp : KeyPasses s) (hk : k < 18)
    (hA : ReadsAnswered s.setup.platform (keyBase s) k) (hun : ReadUnanswered s.setup.platform (keyBase s + k)) :
    exec .keyLoad s = .fault .busNoAnswer := by
  obtain ⟨kb, -, hrun⟩ := runAccesses_key hidx hA hk.le
  have hbyte : ReadUnanswered s.setup.platform (keyBase s + (BitVec.ofNat 32 k).toNat) := by
    rw [add_toNat_ofNat _ (by omega)]
    exact hun
  have hstuck := keyByte_unanswered (s := { s with kb := kb, idx := BitVec.ofNat 32 k }) hbyte
  have hleft : 18 - s.idx.toNat = 18 := by rw [hidx]; rfl
  rw [exec_keyLoad_passes hp, hleft]
  exact workFor_whole_stuck hk hrun (runAccesses_succ_stuck 0 hstuck)

theorem exec_block_hangs (d : Dir) (hf : Fresh s) (hwf : s.mem.wf = true) (hp : BlockPasses s) (hk : k < 16) (h : HangsAt s k) :
    exec (blockInstr d) s = .fault .busNoAnswer := by
  have ⟨hidx, _, hheld⟩ := hf
  have ⟨_, _, _, _, _, hov, _, _⟩ := hp
  obtain ⟨hA, hbyte⟩ := HangsAt.byteHangs h
  obtain ⟨m, -, hrun⟩ := runAccesses_block (dir := d) (s := deriveTs s) (deriveTs_fresh hf) hidx hheld hwf hov hA hk.le (by decide)
  obtain ⟨j, hj, hstuck⟩ := runAccesses_byteHangs (access := blockAccess d) (s := blockAt s k m) (fun _ => ⟨_, _, _, _, rfl⟩) rfl
    (add_toNat_ofNat _ (by omega)) (add_toNat_ofNat _ (by omega)) hbyte
  rw [exec_blockInstr_passes d hp, accessesLeft_fresh 16 hf]
  exact workFor_whole_stuck (by omega) hrun hstuck

theorem exec_chain_hangs (hf : Fresh s) (hwf : s.mem.wf = true) (hp : ChainPasses s n) (hk : k < n) (h : HangsAt s k) :
    exec .chainCrypt s = .fault .busNoAnswer := by
  have ⟨hidx, _, hheld⟩ := hf
  have ⟨_, hlen, _, _, _, _, hov, _, _⟩ := hp
  have hn : n < 2 ^ 32 := hlen ▸ s.latch.srcLen.isLt
  obtain ⟨hA, hbyte⟩ := HangsAt.byteHangs h
  obtain ⟨m, -, hrun⟩ := runAccesses_chain hidx hheld hwf hov hA hk.le hn
  obtain ⟨j, hj, hstuck⟩ := runAccesses_byteHangs (access := chainAccess) (s := chainAt s k m) (fun _ => ⟨_, _, _, _, rfl⟩) rfl
    (add_toNat_ofNat _ (by omega)) (add_toNat_ofNat _ (by omega)) hbyte
  rw [exec_chainCrypt_passes hp, accessesLeft_fresh n hf]
  exact workFor_whole_stuck (by omega) hrun hstuck

end Hangs

/-- Settles O7: the step is the whole command, and it completes, has no step or hangs as its accesses do. -/
theorem acceptedCommandCompletes : Obligations.AcceptedCommandCompletes := by
  unfold Obligations.AcceptedCommandCompletes
  intro s hb hinputs
  have hstep : step s = exec (fetch s) s := (step_alone hinputs).trans (engineAlone_busy hb)
  rw [hstep]
  refine ⟨fun hserves => ?_, fun hcheck b hbuf k hk he => ?_, fun k hi hidx hp hk hA hun => ?_, fun d k hi hf hwf hp hk h => ?_,
    fun n k hi hf hwf hp hk h => ?_⟩
  · obtain ⟨t, ht⟩ := exec_completes hb hserves
    exact ⟨t, ht, exec_idle ht, exec_done hb ht⟩
  · exact exec_sideEffects hcheck hbuf (hasSideEffects_iff.2 ⟨k, hk, he⟩)
  · rw [hi]; exact exec_keyLoad_hangs hidx hp hk hA hun
  · rw [hi]; exact exec_block_hangs d hf hwf hp hk h
  · rw [hi]; exact exec_chain_hangs hf hwf hp hk h

end Sys2Proof.Proofs
end
